-- ==== Sys2Proof/Word.lean ====
section
/-! DEFINITION. The word types of the k128cp2 core (00_scope.md R8, 10_state.md R20). -/

namespace Sys2Proof

/-- A 64-bit value: a VLIW word, a local-memory word, a floating register (R22, R70, R72). -/
abbrev Word := BitVec 64

/-- A 32-bit value: one half of a floating register, a general or control register (R22, R26). -/
abbrev Half := BitVec 32

/-- A 16-bit word address of IRAM or LMEM, or an AN, NN or MN value (R27, R29). -/
abbrev Addr := BitVec 16

/-- A section number 0..3 (R11). -/
abbrev Sec := Fin 4

/-- The six floating-point flags in FCSR order: bit 0 X, 1 U, 2 O, 3 Z, 4 V, 5 D (R25). -/
abbrev FpFlags := BitVec 6

end Sys2Proof
end

