-- ==== Sys2Proof/Config.lean ====
section
/-! DEFINITION. What an implementation fixes (the OPEN parameters of 00_scope.md R7 and 92_eei_decisions.md
section 2) and the free values.

The numeric parameters are plain data, so that a statement about every state holds for every value of them; the
function parameters are named by a choice: the spec's reference function, or one of an opaque family that nothing in
Lean can evaluate (assumption log 1, 2). -/

namespace Sys2Proof

/-- The hi sub-instructions that write through `ArithLib` a whole floating register (41_arith.md R223). -/
inductive ArithOp where
  | fadd | fmul | fmadd | cmadd | fsin | fcos | frecip | flog2 | fexp2 | fsqrt
  deriving DecidableEq, Repr

/-- The condition-setters (41_arith.md R234). -/
inductive CmpOp where
  | eq | lt | le
  deriving DecidableEq, Repr

/-- The hi opcodes that have a result delay and a bypass permission (41_arith.md R221). -/
inductive HiOp where
  | arith (op : ArithOp)
  | cmp (op : CmpOp)
  | perm
  deriving DecidableEq, Repr

/-- A table with one entry for each hi opcode but `HNOP` (41_arith.md R221). -/
structure HiTable (α : Type) where
  fadd : α
  fmul : α
  fmadd : α
  cmadd : α
  fcmpeq : α
  fcmplt : α
  fcmple : α
  fperm : α
  fsin : α
  fcos : α
  frecip : α
  flog2 : α
  fexp2 : α
  fsqrt : α
  deriving DecidableEq, Repr

/-- The entry of a hi opcode. -/
def HiTable.get {α : Type} (t : HiTable α) : HiOp → α
  | .arith .fadd => t.fadd
  | .arith .fmul => t.fmul
  | .arith .fmadd => t.fmadd
  | .arith .cmadd => t.cmadd
  | .arith .fsin => t.fsin
  | .arith .fcos => t.fcos
  | .arith .frecip => t.frecip
  | .arith .flog2 => t.flog2
  | .arith .fexp2 => t.fexp2
  | .arith .fsqrt => t.fsqrt
  | .cmp .eq => t.fcmpeq
  | .cmp .lt => t.fcmplt
  | .cmp .le => t.fcmple
  | .perm => t.fperm

/-- The table with the same entry for every hi opcode. -/
def HiTable.const {α : Type} (a : α) : HiTable α :=
  { fadd := a, fmul := a, fmadd := a, cmadd := a, fcmpeq := a, fcmplt := a, fcmple := a, fperm := a,
    fsin := a, fcos := a, frecip := a, flog2 := a, fexp2 := a, fsqrt := a }

/-- The list of a table's entries. -/
def HiTable.toList {α : Type} (t : HiTable α) : List α :=
  [t.fadd, t.fmul, t.fmadd, t.cmadd, t.fcmpeq, t.fcmplt, t.fcmple, t.fperm,
   t.fsin, t.fcos, t.frecip, t.flog2, t.fexp2, t.fsqrt]

/-- Which function a configuration function of R7 is: the spec's reference definition, or the `k`-th member of an
opaque family (assumption log 2). -/
inductive FnChoice where
  | reference
  | other (k : Nat)
  deriving DecidableEq, Repr

/-- The OPEN parameters of 00_scope.md R7 (92_eei_decisions.md section 2). -/
structure Params where
  /-- `IRAM_WORDS`, 1..2^16 (D9). -/
  iramWords : Nat
  /-- `LOOP_MAX_DEPTH`, at least 1 (D17). -/
  loopMaxDepth : Nat
  /-- `CALL_MAX_DEPTH`, at least 1 (D17). -/
  callMaxDepth : Nat
  /-- `K64FIFO_MAXSIZE`, at least 1 (D20). -/
  fifoMaxSize : Nat
  /-- `QUEUE_DEPTH`, at least 8 (D25). -/
  queueDepth : Nat
  /-- `MAX_SLOT_WRITES`, at least 1, or unbounded (D22). -/
  maxSlotWrites : Option Nat
  /-- `LAT(op)`, 0..7 (D25). -/
  lat : HiTable Nat
  /-- `BYPASS(op)` (D25). -/
  bypass : HiTable Bool
  /-- `LOOPREG_DELAY`, 0..7 (D18). -/
  loopRegDelay : Nat
  /-- `CALLREG_DELAY`, 0..7 (D18). -/
  callRegDelay : Nat
  /-- `MOVE_DELAY`, 0..7 (D44). -/
  moveDelay : Nat
  /-- `ArithLib` (D27). -/
  arithLib : FnChoice
  /-- `AdjustFlags` (D28). -/
  adjustFlags : FnChoice
  /-- `Perm` (D46). -/
  perm : FnChoice
  /-- `AguModify` (D34). -/
  aguModify : FnChoice
  deriving DecidableEq, Repr

/-- `MAX_DELAY`, the largest delay any write is scheduled with (R7, D25). -/
def maxDelay : Nat := 7

/-- `CAL_SLOTS` (R7). -/
def calSlots : Nat := 9

/-- `LMEM_SLOTS` (R7). -/
def lmemSlots : Nat := 4

/-- `DRAIN_CYCLES` (R7). -/
def drainCycles : Nat := 7

/-- The bounds of 92_eei_decisions.md section 2 and 40_machine.md R152: a parameter set outside them is refused. -/
def Params.ok (p : Params) : Bool :=
  (decide (1 ≤ p.iramWords) && decide (p.iramWords ≤ 65536)) &&
  (decide (1 ≤ p.loopMaxDepth) && decide (1 ≤ p.callMaxDepth) && decide (1 ≤ p.fifoMaxSize)) &&
  decide (maxDelay + 1 ≤ p.queueDepth) &&
  (match p.maxSlotWrites with
    | none => true
    | some n => decide (1 ≤ n)) &&
  p.lat.toList.all (fun d => decide (d ≤ maxDelay)) &&
  (decide (p.loopRegDelay ≤ maxDelay) && decide (p.callRegDelay ≤ maxDelay) && decide (p.moveDelay ≤ maxDelay))

/-- DESIGN CHOICE: the reference configuration (92_eei_decisions.md section 2), the value of the parameters in
`State.reset`. Unsafe where a statement rests on it; statements hold for every `Params` (assumption log 1). -/
def Params.reference : Params :=
  { iramWords := 1024, loopMaxDepth := 4, callMaxDepth := 4, fifoMaxSize := 8, queueDepth := 8,
    maxSlotWrites := none, lat := HiTable.const 1, bypass := HiTable.const true,
    loopRegDelay := 0, callRegDelay := 0, moveDelay := 0,
    arithLib := .reference, adjustFlags := .reference, perm := .reference, aguModify := .reference }

/-- DESIGN CHOICE (free value): an `ArithLib` that is not the reference one; the result and the flags are any value
(41_arith.md R220, assumption log 2). -/
opaque Config.arithLib : Nat → ArithOp → Word → Word → Word → Word × FpFlags

/-- DESIGN CHOICE (free value): the compares of an `ArithLib` that is not the reference one (41_arith.md R220). -/
opaque Config.arithCmp : Nat → CmpOp → Word → Word → BitVec 2 × FpFlags

/-- DESIGN CHOICE (free value): an `AdjustFlags` that is not the reference one (41_arith.md R222). -/
opaque Config.adjustFlags : Nat → HiOp → FpFlags → FpFlags

/-- DESIGN CHOICE (free value): a `Perm` that is not the reference one (41_arith.md R239). -/
opaque Config.perm : Nat → Sec → Vector Word 4 → Vector Word 4 → Half → Half → Half → Word

/-- DESIGN CHOICE (free value): an `AguModify` that is not the reference one (42_memory_ops.md R260). -/
opaque Config.aguModify : Nat → Addr → Addr → Addr → Addr

/-- DESIGN CHOICE (free value): the result and flags of one lane of `FSIN`, `FCOS`, `FLOG2` or `FEXP2` in the
reference library outside the special cases of 41_arith.md R246, "any value, with any flags" (assumption log 5). -/
opaque Config.elementary : ArithOp → BitVec 32 → BitVec 32 × FpFlags

end Sys2Proof
end

