-- ==== Sys2Proof/Syntax.lean ====
section
/-! DEFINITION. The sub-instructions of the k128cp2, one constructor for each row of opcode_table.json
(30_encoding.md R126, R127), and the registers that `MOVE` and `SETI` name (R121). -/

namespace Sys2Proof

/-- A register number of 30_encoding.md R121, decoded. -/
inductive RegName where
  /-- One 32-bit half of a floating register: `h = false` bits 31:0, `h = true` bits 63:32. -/
  | fprHalf (f : Fin 64) (h : Bool)
  | gpr (g : Fin 16)
  | an (n : Fin 8)
  | nn (n : Fin 8)
  | mn (n : Fin 8)
  | fccr
  | fcsr
  | pc
  | status
  | control
  | commLo
  | commHi
  | stopcode
  | lc
  | la
  | lsp
  | psp
  | rind
  | rstep
  | rmask
  deriving DecidableEq, Repr

/-- A decoded sub-instruction. Field names are those of 30_encoding.md R104 to R120: `p`, `cc` the predicate;
`fd`, `fs`, `ft`, `f` floating registers; `n` an address register; `g` a general register. -/
inductive Instr where
  -- hi sub-instructions (R126)
  | hnop
  | fadd (p : Bool) (cc : Fin 8) (fd fs ft : Fin 64)
  | fmul (p : Bool) (cc : Fin 8) (fd fs ft : Fin 64)
  | fmadd (p : Bool) (cc : Fin 8) (fd fs ft : Fin 64)
  | cmadd (p : Bool) (cc : Fin 8) (fd fs ft : Fin 64)
  | fcmpeq (cc : Fin 8) (fs ft : Fin 64)
  | fcmplt (cc : Fin 8) (fs ft : Fin 64)
  | fcmple (cc : Fin 8) (fs ft : Fin 64)
  | fperm (p : Bool) (cc : Fin 8) (fd fs ft : Fin 64)
  | fsin (p : Bool) (cc : Fin 8) (fd fs : Fin 64)
  | fcos (p : Bool) (cc : Fin 8) (fd fs : Fin 64)
  | frecip (p : Bool) (cc : Fin 8) (fd fs : Fin 64)
  | flog2 (p : Bool) (cc : Fin 8) (fd fs : Fin 64)
  | fexp2 (p : Bool) (cc : Fin 8) (fd fs : Fin 64)
  | fsqrt (p : Bool) (cc : Fin 8) (fd fs : Fin 64)
  -- lo sub-instructions (R127)
  | lnop
  | ld (p : Bool) (cc : Fin 8) (f : Fin 64) (n : Fin 8) (off13 : BitVec 13)
  | ldd (p : Bool) (cc : Fin 8) (f : Fin 64) (n : Fin 8) (off13 : BitVec 13)
  | st (p : Bool) (cc : Fin 8) (f : Fin 64) (n : Fin 8) (off13 : BitVec 13)
  | std (p : Bool) (cc : Fin 8) (f : Fin 64) (n : Fin 8) (off13 : BitVec 13)
  | ldm (p : Bool) (cc : Fin 8) (f : Fin 64) (n : Fin 8)
  | lddm (p : Bool) (cc : Fin 8) (f : Fin 64) (n : Fin 8)
  | stm (p : Bool) (cc : Fin 8) (f : Fin 64) (n : Fin 8)
  | stdm (p : Bool) (cc : Fin 8) (f : Fin 64) (n : Fin 8)
  | aupd (n : Fin 8) (off13 : BitVec 13)
  | seti (rd : RegName) (u : Bool) (imm16 : BitVec 16)
  | move (rd rs : RegName) (sec : Sec) (bc : Bool)
  | jump (imm16 : Addr)
  | bcc (all : Bool) (cc : Fin 8) (imm16 : Addr)
  | call (g : Fin 16)
  | calli (imm16 : Addr)
  | ret
  | doLoop (g : Fin 16) (end16 : Addr)
  | doi (count10 : BitVec 10) (end16 : Addr)
  | enddo
  | sync
  | stop (code16 : BitVec 16)
  deriving DecidableEq, Repr

/-- Whether a sub-instruction is a hi one, carried in bits 63:32 of a word (R3, R100). -/
def Instr.isHi : Instr → Bool
  | .hnop => true
  | .fadd _ _ _ _ _ => true
  | .fmul _ _ _ _ _ => true
  | .fmadd _ _ _ _ _ => true
  | .cmadd _ _ _ _ _ => true
  | .fcmpeq _ _ _ => true
  | .fcmplt _ _ _ => true
  | .fcmple _ _ _ => true
  | .fperm _ _ _ _ _ => true
  | .fsin _ _ _ _ => true
  | .fcos _ _ _ _ => true
  | .frecip _ _ _ _ => true
  | .flog2 _ _ _ _ => true
  | .fexp2 _ _ _ _ => true
  | .fsqrt _ _ _ _ => true
  | .lnop => false
  | .ld _ _ _ _ _ => false
  | .ldd _ _ _ _ _ => false
  | .st _ _ _ _ _ => false
  | .std _ _ _ _ _ => false
  | .ldm _ _ _ _ => false
  | .lddm _ _ _ _ => false
  | .stm _ _ _ _ => false
  | .stdm _ _ _ _ => false
  | .aupd _ _ => false
  | .seti _ _ _ => false
  | .move _ _ _ _ => false
  | .jump _ => false
  | .bcc _ _ _ => false
  | .call _ => false
  | .calli _ => false
  | .ret => false
  | .doLoop _ _ => false
  | .doi _ _ => false
  | .enddo => false
  | .sync => false
  | .stop _ => false

end Sys2Proof
end

