-- ==== Sys2Proof/Machine/State.lean ====
section
/-! DEFINITION. The state of the k128cp2 core as plain data (10_state.md, 20_memory.md R70 to R75), the reasons a step
stops (60_exceptions.md R360 to R362), and the state after reset (R60). -/

namespace Sys2Proof.Machine

/-- Who made a register write (10_state.md R20). -/
inductive Origin where
  | core | host
  deriving DecidableEq, Repr

/-- A register identifier (00_scope.md R11). The `half` of R11 is carried by the write mask (40_machine.md R156). -/
inductive Reg where
  | fpr (s : Sec) (i : Fin 64)
  | fccr (s : Sec)
  | fcsr (s : Sec)
  | gpr (i : Fin 16)
  | an (i : Fin 8)
  | nn (i : Fin 8)
  | mn (i : Fin 8)
  | rind
  | rstep
  | rmask
  | pc
  | status
  | control
  | comm
  | stopcode
  | lc
  | la
  | lsp
  | psp
  deriving DecidableEq, Repr

/-- A pending write of the delayed-write queue (10_state.md R49). `value` and `mask` are zero-extended to 64 bits. -/
structure PendingWrite where
  reg : Reg
  value : Word
  mask : Word
  origin : Origin
  originCycle : Nat
  bypass : Bool
  deriving DecidableEq, Repr

/-- The kinds of PC transfers (10_state.md R51). -/
inductive XferKind where
  | jump | call | ret | loop
  deriving DecidableEq, Repr

/-- A requested or latched transfer (10_state.md R51). -/
structure Xfer where
  kind : XferKind
  target : Addr
  deriving DecidableEq, Repr

/-- The kinds of drains (10_state.md R51). -/
inductive DrainKind where
  | none | sync | stop
  deriving DecidableEq, Repr

/-- The drain countdown (10_state.md R51). -/
structure Drain where
  kind : DrainKind
  count : Nat
  deriving DecidableEq, Repr

/-- A loop-stack frame (10_state.md R45). -/
structure LoopFrame where
  start : Addr
  stop : Addr
  count : BitVec 32
  deriving DecidableEq, Repr

/-- An entry of the injection FIFO (20_memory.md R74). -/
inductive FifoEntry where
  | preload (addr : Addr) (word : Word)
  | exec (word : Word)
  deriving DecidableEq, Repr

/-- What an Lmem entry carries besides its sub-instruction (10_state.md R48): `pc_at_issue`, `ea`, `new_an`,
`active[s]`, `data[s][0]` and `data[s][1]`. -/
structure Latch where
  pcAtIssue : Addr
  ea : Addr
  newAn : Addr
  active : Vector Bool 4
  data0 : Vector Word 4
  data1 : Vector Word 4
  deriving DecidableEq, Repr

/-- A latch whose stages have computed nothing yet. DESIGN CHOICE: the not yet computed values are 0 and false; no rule
reads one before it is computed (assumption log 10). -/
def Latch.fresh (pcAtIssue : Addr) : Latch :=
  { pcAtIssue := pcAtIssue, ea := 0, newAn := 0, active := Vector.replicate 4 false,
    data0 := Vector.replicate 4 0, data1 := Vector.replicate 4 0 }

/-- An entry of the arithmetic pipeline (10_state.md R47). -/
structure CalEntry where
  op : Instr
  ticket : Nat
  stage : Nat
  annulled : Bool
  deriving DecidableEq, Repr

/-- An entry of the memory/control pipeline (10_state.md R48). -/
structure LmemEntry where
  op : Instr
  ticket : Nat
  stage : Nat
  annulled : Bool
  latch : Latch
  deriving DecidableEq, Repr

/-- The MODEL's own: the context of the stage that `exec` executes (assumption log 7): its number, the step's
`delay_slot` flag (40_machine.md R181) and the working values of the entry it belongs to. -/
structure StageCtx where
  stage : Nat
  delaySlot : Bool
  latch : Latch
  deriving DecidableEq, Repr

/-- The context between steps. -/
def StageCtx.idle : StageCtx := { stage := 0, delaySlot := false, latch := Latch.fresh 0 }

/-- Why a step ends in a fault: the fatal errors of 60_exceptions.md R360 and the model faults of R362. Every one is
safe: the spec itself names the fault as the outcome, and the machine stops where real hardware might go on. -/
inductive Fault where
  /-- R360: a word with an unassigned opcode, a reserved bit set or an invalid register number is issued. Raised by
  `issue`. Safe. -/
  | unknownOpcode
  /-- R360: a push into a full pipeline. Raised by `issue`; cannot occur in a state a run reaches (R167). Safe. -/
  | pipelineOverflow
  /-- R360: a write into a queue slot that holds `MAX_SLOT_WRITES` writes. Raised by `sched`; cannot occur with the
  reference value. Safe. -/
  | queueOverflow
  /-- R360: an invalid field of an internal-only opcode. Never raised: the spec defines no internal-only opcode. Safe. -/
  | invalidInternalField
  /-- R362: a transfer requested by the delay-slot word of another transfer. Raised by `latchXfer`. Safe. -/
  | transferInDelaySlot
  /-- R362: two PC sources due together. Raised by `pcUpdate`, `loopEnd` and `latchXfer`. Safe. -/
  | pcConflict
  /-- R362: a `DO`/`DOI` with a body of under two words. Raised by `doCommon`. Safe. -/
  | loopBodyTooShort
  /-- R362: a nested `DO`/`DOI` that ends beyond the enclosing end - 2. Raised by `doCommon`. Safe. -/
  | nestedLoopEnd
  /-- R362: a `DO`, `DOI` or `ENDDO` in a delay slot. Raised by `doCommon` and `execEnddo`. Safe. -/
  | loopControlInDelaySlot
  /-- R362: an `ENDDO` while a loop pop or a loop-back is pending. Raised by `execEnddo`. Safe. -/
  | endDoConflict
  /-- R362: a `DO`, `DOI` or `ENDDO` issued from an `Exec` FIFO entry. Raised by `clockStep`. Safe. -/
  | fifoLoopControl
  deriving DecidableEq, Repr

/-- Why the model has no step at all. -/
inductive Refusal where
  /-- An instruction without a meaning. Raised by an arm of `exec` that has none; no arm is such. Safe. -/
  | notModelled (mnemonic : String)
  /-- 40_machine.md R152, 93_implementation_defined.md: the parameters violate their bounds, and the configuration is
  refused before it runs. Raised by `step`. Safe. -/
  | badConfiguration
  deriving DecidableEq, Repr

/-- A memory of 64-bit words: (word address, word) pairs in canonical form (`Memory.wf`); an unlisted word reads 0, the
reset contents of 10_state.md R60 (20_memory.md R70, R72; assumption log 8). -/
abbrev Memory := List (Nat × Word)

/-- Canonical form: addresses strictly rising, no listed word equal to what an unlisted one reads as. -/
abbrev Memory.wf (m : Memory) : Prop :=
  m.Pairwise (fun a b => a.1 < b.1) ∧ ∀ c ∈ m, c.2 ≠ 0

/-- The state of the core (10_state.md R22 to R54, 20_memory.md R70 to R75). -/
structure State where
  /-- The MODEL's own: the OPEN parameters (00_scope.md R7), never changed (assumption log 1). -/
  params : Params
  /-- `FPR[s][i]` (R22). -/
  fpr : Vector (Vector Word 64) 4
  /-- `FCCR[s]` (R24). -/
  fccr : Vector (BitVec 8) 4
  /-- `FCSR[s]` (R25). -/
  fcsr : Vector (BitVec 32) 4
  /-- `GPR[i]` (R26). -/
  gpr : Vector (BitVec 32) 16
  /-- `AN[i]` (R27). -/
  an : Vector Addr 8
  /-- `NN[i]` (R27). -/
  nn : Vector Addr 8
  /-- `MN[i]` (R27). -/
  mn : Vector Addr 8
  /-- `RIND` (R28). -/
  rind : BitVec 32
  /-- `RSTEP` (R28). -/
  rstep : BitVec 32
  /-- `RMASK` (R28). -/
  rmask : BitVec 32
  /-- `PC` (R29). -/
  pc : Addr
  /-- The stored bits of `STATUS` (R30, R31). -/
  status : BitVec 32
  /-- `CONTROL` (R32). -/
  control : BitVec 32
  /-- `COMM` (R33). -/
  comm : Word
  /-- `COMM_ORIGIN` (R33). -/
  commOrigin : Origin
  /-- `STOPCODE` (R34). -/
  stopcode : BitVec 32
  /-- `LC` (R35). -/
  lc : BitVec 32
  /-- `LA` (R35). -/
  la : Addr
  /-- `LSP` (R35). -/
  lsp : BitVec 32
  /-- `PSP` (R36). -/
  psp : BitVec 32
  /-- `loopstk` (R45). -/
  loopstk : List LoopFrame
  /-- `loop_depth` (R45). -/
  loopDepth : Nat
  /-- `callstk` (R46). -/
  callstk : List Addr
  /-- `call_depth` (R46). -/
  callDepth : Nat
  /-- `calpipe`, oldest first (R47). -/
  calpipe : List CalEntry
  /-- `lmempipe`, oldest first (R48). -/
  lmempipe : List LmemEntry
  /-- `queue`, one list of pending writes for each slot (R49). -/
  queue : List (List PendingWrite)
  /-- `cycle` (R50). -/
  cycle : Nat
  /-- `drain` (R51). -/
  drain : Drain
  /-- `xfer_req` (R51). -/
  xferReq : Option Xfer
  /-- `xfer_pending` (R51). -/
  xferPending : Option Xfer
  /-- `pop_pending` (R51). -/
  popPending : Bool
  /-- `annul_next` (R51). -/
  annulNext : Bool
  /-- `samelog` (R52). -/
  samelog : List (Reg × Word)
  /-- `fault` (R53). -/
  fault : Option Fault
  /-- `fifo`, front first (20_memory.md R74). -/
  fifo : List FifoEntry
  /-- `IRAM` (20_memory.md R70). -/
  iram : Memory
  /-- `LMEM[s]` (20_memory.md R72). -/
  lmem : Vector Memory 4
  /-- The MODEL's own: the context of the stage being executed (assumption log 7). -/
  cur : StageCtx
  deriving DecidableEq, Repr

/-- The zero state of 10_state.md R60 under the parameters `p`, before a reset image is loaded. -/
def State.zero (p : Params) : State :=
  { params := p
    fpr := Vector.replicate 4 (Vector.replicate 64 0), fccr := Vector.replicate 4 0, fcsr := Vector.replicate 4 0
    gpr := Vector.replicate 16 0, an := Vector.replicate 8 0, nn := Vector.replicate 8 0, mn := Vector.replicate 8 0
    rind := 0, rstep := 0, rmask := 0
    pc := 0, status := 0, control := 0, comm := 0, commOrigin := .host, stopcode := 0
    lc := 0, la := 0, lsp := 0, psp := 0
    loopstk := List.replicate p.loopMaxDepth { start := 0, stop := 0, count := 0 }, loopDepth := 0
    callstk := List.replicate p.callMaxDepth 0, callDepth := 0
    calpipe := [], lmempipe := [], queue := List.replicate p.queueDepth [], cycle := 0
    drain := { kind := .none, count := 0 }, xferReq := none, xferPending := none
    popPending := false, annulNext := false, samelog := [], fault := none
    fifo := [], iram := [], lmem := Vector.replicate 4 [], cur := StageCtx.idle }

/-- The machine right after reset (10_state.md R60, 70_reset_and_hazards.md R390, R391). DESIGN CHOICE: the parameters
have their reference values (assumption log 1) and the reset image is empty (assumption log 4). -/
def State.reset : State := State.zero Params.reference

end Sys2Proof.Machine
end

