-- ==== Sys2Proof/Machine/Ops.lean ====
section
/-! DEFINITION. The operations on memories, registers and the delayed-write queue, and what a fault leaves
(20_memory.md, 40_machine.md sections 1 and 2, 60_exceptions.md section 1). -/

namespace Sys2Proof.Machine

/-- The outcome of a stage, a phase or a step. -/
abbrev Res := Host.Outcome State Fault Refusal

/-- Go on with `f` from the next state; a fault or a refusal ends the step (R360). -/
def andThen (o : Res) (f : State → Res) : Res :=
  match o with
  | .next s => f s
  | .fault r => .fault r
  | .refused r => .refused r

/-- The four sections in ascending order (00_scope.md R12). -/
def forSections (f : Sec → State → Res) (s : State) : Res :=
  andThen (f 0 s) fun s => andThen (f 1 s) fun s => andThen (f 2 s) fun s => f 3 s

/-- A faulting step leaves the state before it with `fault` set (60_exceptions.md R360, R361): the one exception
entry this hardware has. Nothing is saved, no mode changes, the PC goes nowhere (R367); only reset leaves it. -/
def recordFault (r : Fault) (s : State) : State := { s with fault := some r }

/-! ## Memories -/

/-- The word at address `a` (20_memory.md R70, R72); an unlisted word reads 0 (10_state.md R60). -/
def Memory.read (m : Memory) (a : Nat) : Word :=
  match m with
  | [] => 0
  | (b, v) :: rest => if a = b then v else Memory.read rest a

/-- Write the word at address `a`, keeping the canonical form. -/
def Memory.write (m : Memory) (a : Nat) (v : Word) : Memory :=
  match m with
  | [] => if v = 0 then [] else [(a, v)]
  | (b, w) :: rest =>
    if a < b then (if v = 0 then (b, w) :: rest else (a, v) :: (b, w) :: rest)
    else if a = b then (if v = 0 then rest else (a, v) :: rest)
    else (b, w) :: Memory.write rest a v

/-- `MemRead(s, a)` (00_scope.md R10). -/
def memRead (sec : Sec) (a : Addr) (s : State) : Word := Memory.read s.lmem[sec] a.toNat

/-- `MemWrite(s, a, v)` (00_scope.md R10). -/
def memWrite (sec : Sec) (a : Addr) (v : Word) (s : State) : State :=
  { s with lmem := s.lmem.set sec (Memory.write s.lmem[sec] a.toNat v) }

/-! ## Registers -/

/-- `RF(r)`: the committed value, zero-extended (00_scope.md R9); of STATUS the stored bits. -/
def rfRead (r : Reg) (s : State) : Word :=
  match r with
  | .fpr sec i => s.fpr[sec][i]
  | .fccr sec => s.fccr[sec].setWidth 64
  | .fcsr sec => s.fcsr[sec].setWidth 64
  | .gpr i => s.gpr[i].setWidth 64
  | .an i => s.an[i].setWidth 64
  | .nn i => s.nn[i].setWidth 64
  | .mn i => s.mn[i].setWidth 64
  | .rind => s.rind.setWidth 64
  | .rstep => s.rstep.setWidth 64
  | .rmask => s.rmask.setWidth 64
  | .pc => s.pc.setWidth 64
  | .status => s.status.setWidth 64
  | .control => s.control.setWidth 64
  | .comm => s.comm
  | .stopcode => s.stopcode.setWidth 64
  | .lc => s.lc.setWidth 64
  | .la => s.la.setWidth 64
  | .lsp => s.lsp.setWidth 64
  | .psp => s.psp.setWidth 64

/-- Set the committed value, truncated to the register's width. -/
def rfWrite (r : Reg) (v : Word) (s : State) : State :=
  match r with
  | .fpr sec i => { s with fpr := s.fpr.set sec (s.fpr[sec].set i v) }
  | .fccr sec => { s with fccr := s.fccr.set sec (v.setWidth 8) }
  | .fcsr sec => { s with fcsr := s.fcsr.set sec (v.setWidth 32) }
  | .gpr i => { s with gpr := s.gpr.set i (v.setWidth 32) }
  | .an i => { s with an := s.an.set i (v.setWidth 16) }
  | .nn i => { s with nn := s.nn.set i (v.setWidth 16) }
  | .mn i => { s with mn := s.mn.set i (v.setWidth 16) }
  | .rind => { s with rind := v.setWidth 32 }
  | .rstep => { s with rstep := v.setWidth 32 }
  | .rmask => { s with rmask := v.setWidth 32 }
  | .pc => { s with pc := v.setWidth 16 }
  | .status => { s with status := v.setWidth 32 }
  | .control => { s with control := v.setWidth 32 }
  | .comm => { s with comm := v }
  | .stopcode => { s with stopcode := v.setWidth 32 }
  | .lc => { s with lc := v.setWidth 32 }
  | .la => { s with la := v.setWidth 16 }
  | .lsp => { s with lsp := v.setWidth 32 }
  | .psp => { s with psp := v.setWidth 32 }

/-- A full write mask. -/
def fullMask : Word := BitVec.allOnes 64

/-- The bits a masked write leaves: `(old AND NOT mask) OR (value AND mask)` (10_state.md R20). -/
def merge (old value mask : Word) : Word := (old &&& ~~~mask) ||| (value &&& mask)

/-- The bits of a register that a write of this origin can change (10_state.md R25, R29, R31; 40_machine.md R154: "a
write to a read-only bit changes nothing there"). -/
def writeBits (r : Reg) (o : Origin) : Word :=
  match r, o with
  | .status, .core => 0x3FF8
  | .status, .host => 0x3FF9
  | .fcsr _, _ => 0x3F
  | .pc, _ => 0
  | _, _ => fullMask

/-- A masked write to the committed register, as a commit or a host write does it (10_state.md R20, R31, R33). -/
def commitValue (r : Reg) (value mask : Word) (o : Origin) (s : State) : State :=
  let t := rfWrite r (merge (rfRead r s) value (mask &&& writeBits r o)) s
  match r with
  | .comm => { t with commOrigin := o }
  | _ => t

/-! ## The delayed-write queue -/

/-- The writes of slot `k`, in the order they were scheduled (10_state.md R49). -/
def slot (k : Nat) (s : State) : List PendingWrite := s.queue.getD k []

/-- The slot of a write of delay `d`; `late = 1` for a write scheduled by the PC update (40_machine.md R151, R153). -/
def slotIndex (late d : Nat) (s : State) : Nat := (s.cycle + d + late) % s.params.queueDepth

/-- Append writes to a slot. -/
def appendWrites (k : Nat) (ws : List PendingWrite) (s : State) : State :=
  { s with queue := s.queue.set k (slot k s ++ ws) }

/-- The pending write that `Sched` appends (40_machine.md R153). -/
def coreWrite (r : Reg) (value mask : Word) (bypass : Bool) (s : State) : PendingWrite :=
  { reg := r, value := value, mask := mask, origin := .core, originCycle := s.cycle, bypass := bypass }

/-- `Sched(r, value, mask, d, b)` (40_machine.md R153), `late` as in R151. -/
def schedAt (late : Nat) (r : Reg) (value mask : Word) (d : Nat) (bypass : Bool) (s : State) : Res :=
  if s.params.maxSlotWrites = some (slot (slotIndex late d s) s).length then .fault .queueOverflow
  else .next (appendWrites (slotIndex late d s) [coreWrite r value mask bypass s] s)

/-- `Sched` from a stage handler (40_machine.md R150, R153). -/
def sched (r : Reg) (value mask : Word) (d : Nat) (bypass : Bool) (s : State) : Res :=
  schedAt 0 r value mask d bypass s

/-- The pending writes from the newest slot to the oldest, each slot from its last write to its first
(40_machine.md R158). -/
def pendingNewestFirst (s : State) : List PendingWrite :=
  (List.range s.params.queueDepth).reverse.flatMap
    fun t => (slot ((s.cycle + t) % s.params.queueDepth) s).reverse

/-- `Read(r)`, the bypass read (40_machine.md R158). -/
def readReg (r : Reg) (s : State) : Word :=
  match (pendingNewestFirst s).find? (fun w => decide (w.reg = r) && w.bypass) with
  | some w => merge (rfRead r s) w.value w.mask
  | none => rfRead r s

/-- Commit one write and log it (40_machine.md R154). -/
def commitWrite (w : PendingWrite) (s : State) : State :=
  let t := commitValue w.reg w.value w.mask w.origin s
  { t with samelog := t.samelog ++ [(w.reg, rfRead w.reg t)] }

/-- Commit writes in list order (40_machine.md R154). -/
def commitWrites (ws : List PendingWrite) (s : State) : State :=
  match ws with
  | [] => s
  | w :: rest => commitWrites rest (commitWrite w s)

/-- The commit phase: the head slot is committed and cleared (40_machine.md R154). -/
def commitPhase (s : State) : State :=
  let k := s.cycle % s.params.queueDepth
  let t := commitWrites (slot k s) { s with samelog := [] }
  { t with queue := t.queue.set k [] }

end Sys2Proof.Machine
end

