-- ==== Sys2Proof/Machine/Flags.lean ====
section
/-! DEFINITION. The status register and the floating-point flags (10_state.md R25, R30, R31; 41_arith.md R224;
60_exceptions.md R363, R364). -/

namespace Sys2Proof.Machine

/-- `STATUS.FIFO_OVF` (R30). -/
def fifoOvfBit : Word := 0x8
/-- `STATUS.LOOP_OVF` (R30). -/
def loopOvfBit : Word := 0x10
/-- `STATUS.LOOP_UNF` (R30). -/
def loopUnfBit : Word := 0x20
/-- `STATUS.CALL_OVF` (R30). -/
def callOvfBit : Word := 0x40
/-- `STATUS.CALL_UNF` (R30). -/
def callUnfBit : Word := 0x80

/-- `STATUS.RUN`, bit 0 (R30). -/
def running (s : State) : Bool := s.status.getLsbD 0

/-- The scheduler's `STATUS.RUN := 0` (40_machine.md R150, R182, R184). -/
def clearRun (s : State) : State := { s with status := s.status &&& 0xFFFFFFFE }

/-- A stored value of STATUS as it reads: bit 1 is FIFO_EMPTY, bit 2 is DRAIN (10_state.md R31). -/
def statusValue (stored : BitVec 32) (s : State) : BitVec 32 :=
  (stored &&& 0xFFFFFFF9) ||| (if s.fifo.isEmpty then 2 else 0) ||| (if s.drain.kind = .none then 0 else 4)

/-- `SetSticky(bit)` (60_exceptions.md R363), `late` as in 40_machine.md R151. -/
def setStickyAt (late : Nat) (bit : Word) (s : State) : Res := schedAt late .status bit bit 0 true s

/-- `SetSticky(bit)` from a stage handler. -/
def setSticky (bit : Word) (s : State) : Res := setStickyAt 0 bit s

/-- `WriteFlags(s, f, d, b)` (41_arith.md R224): OR the flags into FCSR of the section and into STATUS.FPE. -/
def writeFlags (sec : Sec) (f : FpFlags) (d : Nat) (bypass : Bool) (s : State) : Res :=
  if f = 0 then .next s
  else
    andThen (sched (.fcsr sec) (f.setWidth 64) (f.setWidth 64) d bypass s) fun s =>
      sched .status (f.setWidth 64 <<< 8) (f.setWidth 64 <<< 8) d bypass s

end Sys2Proof.Machine
end

