-- ==== Sys2Proof/Machine/Stacks.lean ====
section
/-! DEFINITION. The loop and call stacks (40_machine.md sections 7 and 8; 10_state.md R45, R46). -/

namespace Sys2Proof.Machine

/-- A frame that no push has written. -/
def LoopFrame.zero : LoopFrame := { start := 0, stop := 0, count := 0 }

/-- `top`, the frame `loopstk[loop_depth-1]` (10_state.md R45). -/
def topFrame (s : State) : LoopFrame := s.loopstk.getD (s.loopDepth - 1) LoopFrame.zero

/-- The mirror writes of LA, LC and LSP in the order of 40_machine.md R202, or of LC, LA and LSP as in R200. -/
def schedLoopMirror (late : Nat) (r : Reg) (v : Word) (m : Word) (s : State) : Res :=
  schedAt late r v m s.params.loopRegDelay true s

/-- The mirror write of LC (R195, R200, R202). -/
def mirrorLc (late : Nat) (c : BitVec 32) (s : State) : Res :=
  schedLoopMirror late .lc (c.setWidth 64) 0xFFFFFFFF s

/-- The mirror write of LA (R200, R202). -/
def mirrorLa (late : Nat) (a : Addr) (s : State) : Res :=
  schedLoopMirror late .la (a.setWidth 64) 0xFFFF s

/-- The mirror write of LSP: the depth (R200, R202). -/
def mirrorLsp (late : Nat) (s : State) : Res :=
  schedLoopMirror late .lsp (BitVec.ofNat 64 s.loopDepth) 0xFFFFFFFF s

/-- The mirror write of PSP: the call depth (R193, R194, R196). It is made by the PC update. -/
def mirrorPsp (s : State) : Res :=
  schedAt 1 .psp (BitVec.ofNat 64 s.callDepth) 0xFFFFFFFF s.params.callRegDelay true s

/-- `LoopPush(start, end, n)` (40_machine.md R200). -/
def loopPush (start stop : Addr) (n : BitVec 32) (s : State) : Res :=
  andThen (mirrorLc 0 n
    { s with
      loopstk := s.loopstk.set s.loopDepth { start := start, stop := stop, count := n }
      loopDepth := s.loopDepth + 1 }) fun s =>
  andThen (mirrorLa 0 stop s) fun s => mirrorLsp 0 s

/-- `LoopPop()` (40_machine.md R202); `late = 1` from the PC update (R151). -/
def loopPop (late : Nat) (s : State) : Res :=
  let t : State := { s with loopDepth := s.loopDepth - 1 }
  let f := if t.loopDepth = 0 then LoopFrame.zero else topFrame t
  andThen (mirrorLa late f.stop t) fun s => andThen (mirrorLc late f.count s) fun s => mirrorLsp late s

/-- The call push of an applied `CALL` transfer (40_machine.md R193). -/
def callPush (ret : Addr) (s : State) : Res :=
  if s.callDepth < s.params.callMaxDepth then
    mirrorPsp { s with callstk := s.callstk.set s.callDepth ret, callDepth := s.callDepth + 1 }
  else setStickyAt 1 callOvfBit s

end Sys2Proof.Machine
end

