-- ==== Sys2Proof/Machine/PcUpdate.lean ====
section
/-! DEFINITION. The PC update and the transfer latch of a step (40_machine.md section 6). Writes scheduled here are late
(R151). -/

namespace Sys2Proof.Machine

/-- The macro-states of a step (40_machine.md R180). -/
inductive Mode where
  | draining | running | idle
  deriving DecidableEq, Repr

/-- The macro-state a step starts in (40_machine.md R180). -/
def modeOf (s : State) : Mode :=
  if s.drain.kind ≠ .none then .draining else if running s then .running else .idle

/-- `PC := a` by the scheduler (40_machine.md R150). -/
def setPc (a : Addr) (s : State) : State := { s with pc := a }

/-- `ApplyTransfer` (40_machine.md R191, R193, R194). -/
def applyTransfer (t : Xfer) (pc0 : Addr) (s : State) : Res :=
  match t.kind with
  | .jump => .next (setPc t.target s)
  | .loop => .next (setPc t.target s)
  | .call => andThen (callPush (pc0 + 1) s) fun s => .next (setPc t.target s)
  | .ret =>
    if 0 < s.callDepth then
      mirrorPsp (setPc (s.callstk.getD (s.callDepth - 1) 0) { s with callDepth := s.callDepth - 1 })
    else andThen (setStickyAt 1 callUnfBit s) fun s => .next (setPc (pc0 + 1) s)

/-- `LoopEnd(pc0)` (40_machine.md R195). -/
def loopEnd (pc0 : Addr) (s : State) : Res :=
  let f := topFrame s
  let count := f.count - 1
  let t : State := { s with loopstk := s.loopstk.set (s.loopDepth - 1) { f with count := count } }
  andThen (mirrorLc 1 count t) fun s =>
    if count = 0 then .next (setPc (pc0 + 1) { s with popPending := true })
    else if s.xferReq ≠ none then .fault .pcConflict
    else .next (setPc (pc0 + 1) { s with xferReq := some { kind := .loop, target := f.start } })

/-- `PcUpdate(pc0, mode, delay_slot)` (40_machine.md R190, R198). -/
def pcUpdate (pc0 : Addr) (mode : Mode) (s : State) : Res :=
  if s.popPending then
    if s.xferPending ≠ none then .fault .pcConflict
    else andThen (loopPop 1 s) fun s => .next (setPc (pc0 + 1) { s with popPending := false })
  else
    match s.xferPending with
    | some t => applyTransfer t pc0 { s with xferPending := none }
    | none =>
      if mode = .running ∧ 0 < s.loopDepth ∧ pc0 + 1 = (topFrame s).stop then loopEnd pc0 s
      else .next (setPc (pc0 + 1) s)

/-- `Latch(delay_slot)` (40_machine.md R197). -/
def latchXfer (delaySlot : Bool) (s : State) : Res :=
  match s.xferReq with
  | none => .next s
  | some x =>
    if delaySlot then .fault .transferInDelaySlot
    else if s.xferPending ≠ none then .fault .pcConflict
    else .next { s with xferPending := some x, xferReq := none }

end Sys2Proof.Machine
end

