-- ==== Sys2Proof/Machine/RegMap.lean ====
section
/-! DEFINITION. The facts of 30_encoding.md R121 about each register number: its width, whether each section has its
own copy, whether an instruction may name it as a destination. -/

namespace Sys2Proof

/-- The width of a named register in bits (R121, 44_moves.md R344). -/
def RegName.width : RegName → Nat
  | .fprHalf _ _ => 32
  | .gpr _ => 32
  | .an _ => 16
  | .nn _ => 16
  | .mn _ => 16
  | .fccr => 8
  | .fcsr => 32
  | .pc => 16
  | .status => 32
  | .control => 32
  | .commLo => 32
  | .commHi => 32
  | .stopcode => 32
  | .lc => 32
  | .la => 16
  | .lsp => 32
  | .psp => 32
  | .rind => 32
  | .rstep => 32
  | .rmask => 32

/-- Whether each section has its own copy (R121, column "per section"). -/
def RegName.perSection : RegName → Bool
  | .fprHalf _ _ => true
  | .fccr => true
  | .fcsr => true
  | _ => false

/-- Whether an instruction may name the register as its destination (R121, last column). -/
def RegName.writable : RegName → Bool
  | .pc => false
  | .lc => false
  | .la => false
  | .lsp => false
  | .psp => false
  | _ => true

/-- The register a 9-bit number names; `none` for an unassigned number (R121). -/
def RegName.ofNumber (n : Nat) : Option RegName :=
  if h : n < 0x80 then some (.fprHalf ⟨n / 2, by omega⟩ (n % 2 == 1))
  else if h : n < 0x90 then some (.gpr ⟨n - 0x80, by omega⟩)
  else if h : n < 0x98 then some (.an ⟨n - 0x90, by omega⟩)
  else if h : n < 0xA0 then some (.nn ⟨n - 0x98, by omega⟩)
  else if h : n < 0xA8 then some (.mn ⟨n - 0xA0, by omega⟩)
  else match n with
    | 0xA8 => some .fccr
    | 0xA9 => some .fcsr
    | 0xB0 => some .pc
    | 0xB1 => some .status
    | 0xB2 => some .control
    | 0xB3 => some .commLo
    | 0xB4 => some .commHi
    | 0xB5 => some .stopcode
    | 0xB6 => some .lc
    | 0xB7 => some .la
    | 0xB8 => some .lsp
    | 0xB9 => some .psp
    | 0xBA => some .rind
    | 0xBB => some .rstep
    | 0xBC => some .rmask
    | _ => none

/-- The number of a named register (R121). -/
def RegName.number : RegName → Nat
  | .fprHalf f h => 2 * f.val + h.toNat
  | .gpr g => 0x80 + g.val
  | .an n => 0x90 + n.val
  | .nn n => 0x98 + n.val
  | .mn n => 0xA0 + n.val
  | .fccr => 0xA8
  | .fcsr => 0xA9
  | .pc => 0xB0
  | .status => 0xB1
  | .control => 0xB2
  | .commLo => 0xB3
  | .commHi => 0xB4
  | .stopcode => 0xB5
  | .lc => 0xB6
  | .la => 0xB7
  | .lsp => 0xB8
  | .psp => 0xB9
  | .rind => 0xBA
  | .rstep => 0xBB
  | .rmask => 0xBC

end Sys2Proof
end

