-- ==== Sys2Proof/WellFormed.lean ====
section
/-! DEFINITION. Which sub-instructions an encoding exists for: the checks that 30_encoding.md R106, R118 and R121 put
on operands beyond their field widths. -/

namespace Sys2Proof

/-- A compare's `cc` is even (R106). -/
def ccEven (cc : Fin 8) : Bool := cc.val % 2 == 0

/-- `SETI` names a writable destination, of 32 bits in the `.U` form (R118, R121). -/
def setiOk (rd : RegName) (u : Bool) : Bool := rd.writable && (!u || rd.width == 32)

/-- Well-formed sub-instructions (R106, R118, R121); every other operand is valid at every value of its field. -/
def Instr.wellFormed : Instr → Bool
  | .hnop => true
  | .fadd _ _ _ _ _ => true
  | .fmul _ _ _ _ _ => true
  | .fmadd _ _ _ _ _ => true
  | .cmadd _ _ _ _ _ => true
  | .fcmpeq cc _ _ => ccEven cc
  | .fcmplt cc _ _ => ccEven cc
  | .fcmple cc _ _ => ccEven cc
  | .fperm _ _ _ _ _ => true
  | .fsin _ _ _ _ => true
  | .fcos _ _ _ _ => true
  | .frecip _ _ _ _ => true
  | .flog2 _ _ _ _ => true
  | .fexp2 _ _ _ _ => true
  | .fsqrt _ _ _ _ => true
  | .lnop => true
  | .ld _ _ _ _ _ => true
  | .ldd _ _ _ _ _ => true
  | .st _ _ _ _ _ => true
  | .std _ _ _ _ _ => true
  | .ldm _ _ _ _ => true
  | .lddm _ _ _ _ => true
  | .stm _ _ _ _ => true
  | .stdm _ _ _ _ => true
  | .aupd _ _ => true
  | .seti rd u _ => setiOk rd u
  | .move rd _ _ _ => rd.writable
  | .jump _ => true
  | .bcc _ _ _ => true
  | .call _ => true
  | .calli _ => true
  | .ret => true
  | .doLoop _ _ => true
  | .doi _ _ => true
  | .enddo => true
  | .sync => true
  | .stop _ => true

end Sys2Proof
end

