-- ==== Sys2Proof/Decode.lean ====
section
/-! DEFINITION. The decoder of a 64-bit VLIW word, total, rejecting by name, and the encoder (30_encoding.md).

Bit numbers are those of the 64-bit word, as the spec writes them. The core moves whole words only (20_memory.md R76),
so the decoder reads a word and no byte order enters. -/

namespace Sys2Proof

/-- Why a word is invalid (30_encoding.md R122, R123, R121); issuing it is `Fatal(UnknownOpcode)` (R125). -/
inductive DecodeError where
  /-- No row of R126 or R127 has this opcode (R122). -/
  | unassignedOpcode
  /-- A bit marked reserved (0) is set (R123). -/
  | reservedBit
  /-- A register number is unassigned, not allowed as a destination, or too narrow for `SETI.U` (R121). -/
  | badRegister
  deriving DecidableEq, Repr

/-- The field of `n` bits whose least significant bit is bit `lo` of the word (R8, R120). -/
def field (w : Word) (lo n : Nat) : BitVec n := w.extractLsb' lo n

/-- A one-bit field. -/
def flag (w : Word) (lo : Nat) : Bool := field w lo 1 == 1#1

/-- A 2-bit index. -/
def idx2 (w : Word) (lo : Nat) : Fin 4 := (field w lo 2).toFin

/-- A 3-bit index. -/
def idx3 (w : Word) (lo : Nat) : Fin 8 := (field w lo 3).toFin

/-- A 4-bit index. -/
def idx4 (w : Word) (lo : Nat) : Fin 16 := (field w lo 4).toFin

/-- A 6-bit index. -/
def idx6 (w : Word) (lo : Nat) : Fin 64 := (field w lo 6).toFin

/-- The hi opcode, bits 63:56 (R101). -/
def hiOpcode (w : Word) : Nat := (field w 56 8).toNat

/-- The lo opcode, bits 31:26 (R101). -/
def loOpcode (w : Word) : Nat := (field w 26 6).toNat

/-- `i` where the reserved field is zero (R123). -/
def ifReserved (ok : Bool) (i : Instr) : Except DecodeError Instr :=
  if ok then .ok i else .error .reservedBit

/-- Format H3 (R104): p 55, cc 54:52, reserved 51:50, fd 49:44, fs 43:38, ft 37:32. -/
def decodeH3 (mk : Bool → Fin 8 → Fin 64 → Fin 64 → Fin 64 → Instr) (w : Word) : Except DecodeError Instr :=
  ifReserved (field w 50 2 == 0) (mk (flag w 55) (idx3 w 52) (idx6 w 44) (idx6 w 38) (idx6 w 32))

/-- Format H2 (R105): as H3 with 37:32 reserved. -/
def decodeH2 (mk : Bool → Fin 8 → Fin 64 → Fin 64 → Instr) (w : Word) : Except DecodeError Instr :=
  ifReserved (field w 50 2 == 0 && field w 32 6 == 0) (mk (flag w 55) (idx3 w 52) (idx6 w 44) (idx6 w 38))

/-- Format HC (R106): 55 reserved, cc 54:52 with bit 52 reserved, 51:44 reserved, fs 43:38, ft 37:32. -/
def decodeHC (mk : Fin 8 → Fin 64 → Fin 64 → Instr) (w : Word) : Except DecodeError Instr :=
  ifReserved (field w 55 1 == 0 && field w 52 1 == 0 && field w 44 8 == 0) (mk (idx3 w 52) (idx6 w 38) (idx6 w 32))

/-- Format H0 (R107): 55:32 reserved. -/
def decodeH0 (i : Instr) (w : Word) : Except DecodeError Instr := ifReserved (field w 32 24 == 0) i

/-- Format LM (R108): p 25, cc 24:22, f 21:16, n 15:13, off13 12:0. -/
def decodeLM (mk : Bool → Fin 8 → Fin 64 → Fin 8 → BitVec 13 → Instr) (w : Word) : Except DecodeError Instr :=
  .ok (mk (flag w 25) (idx3 w 22) (idx6 w 16) (idx3 w 13) (field w 0 13))

/-- Format LP (R109): as LM with 12:0 reserved. -/
def decodeLP (mk : Bool → Fin 8 → Fin 64 → Fin 8 → Instr) (w : Word) : Except DecodeError Instr :=
  ifReserved (field w 0 13 == 0) (mk (flag w 25) (idx3 w 22) (idx6 w 16) (idx3 w 13))

/-- Format LA (R110): 25:16 reserved, n 15:13, off13 12:0. -/
def decodeLA (mk : Fin 8 → BitVec 13 → Instr) (w : Word) : Except DecodeError Instr :=
  ifReserved (field w 16 10 == 0) (mk (idx3 w 13) (field w 0 13))

/-- Formats LJ and LS (R111, R117): 25:16 reserved, 15:0 the immediate. -/
def decodeLJ (mk : BitVec 16 → Instr) (w : Word) : Except DecodeError Instr :=
  ifReserved (field w 16 10 == 0) (mk (field w 0 16))

/-- Format LB (R112): all 25, cc 24:22, 21:16 reserved, imm16 15:0. -/
def decodeLB (mk : Bool → Fin 8 → Addr → Instr) (w : Word) : Except DecodeError Instr :=
  ifReserved (field w 16 6 == 0) (mk (flag w 25) (idx3 w 22) (field w 0 16))

/-- Format LG (R113): 25:20 reserved, g 19:16, 15:0 reserved. -/
def decodeLG (mk : Fin 16 → Instr) (w : Word) : Except DecodeError Instr :=
  ifReserved (field w 20 6 == 0 && field w 0 16 == 0) (mk (idx4 w 16))

/-- Format LDO (R114): 25:20 reserved, g 19:16, end16 15:0. -/
def decodeLDO (mk : Fin 16 → Addr → Instr) (w : Word) : Except DecodeError Instr :=
  ifReserved (field w 20 6 == 0) (mk (idx4 w 16) (field w 0 16))

/-- Format LDI (R115): count10 25:16, end16 15:0. -/
def decodeLDI (mk : BitVec 10 → Addr → Instr) (w : Word) : Except DecodeError Instr :=
  .ok (mk (field w 16 10) (field w 0 16))

/-- Format L0 (R116): 25:0 reserved. -/
def decodeL0 (i : Instr) (w : Word) : Except DecodeError Instr := ifReserved (field w 0 26 == 0) i

/-- Format LSI (R118): rd 25:17, u 16, imm16 15:0; `rd` and `u` checked by R121. -/
def decodeLSI (w : Word) : Except DecodeError Instr :=
  match RegName.ofNumber (field w 17 9).toNat with
  | none => .error .badRegister
  | some rd =>
    if setiOk rd (flag w 16) then .ok (.seti rd (flag w 16) (field w 0 16)) else .error .badRegister

/-- Format LMV (R119): rd 25:17, rs 16:8, sec 7:6, bc 5, 4:0 reserved; `rd` and `rs` checked by R121. -/
def decodeLMV (w : Word) : Except DecodeError Instr :=
  if field w 0 5 == 0 then
    match RegName.ofNumber (field w 17 9).toNat, RegName.ofNumber (field w 8 9).toNat with
    | some rd, some rs => if rd.writable then .ok (.move rd rs (idx2 w 6) (flag w 5)) else .error .badRegister
    | _, _ => .error .badRegister
  else .error .reservedBit

/-- The hi sub-instruction of a word (R126). -/
def decodeHi (w : Word) : Except DecodeError Instr :=
  match hiOpcode w with
  | 0x00 => decodeH0 .hnop w
  | 0x01 => decodeH3 .fadd w
  | 0x02 => decodeH3 .fmul w
  | 0x03 => decodeH3 .fmadd w
  | 0x04 => decodeH3 .cmadd w
  | 0x05 => decodeHC .fcmpeq w
  | 0x06 => decodeHC .fcmplt w
  | 0x07 => decodeHC .fcmple w
  | 0x08 => decodeH3 .fperm w
  | 0x09 => decodeH2 .fsin w
  | 0x0A => decodeH2 .fcos w
  | 0x0B => decodeH2 .frecip w
  | 0x0C => decodeH2 .flog2 w
  | 0x0D => decodeH2 .fexp2 w
  | 0x0E => decodeH2 .fsqrt w
  | _ => .error .unassignedOpcode

/-- The lo sub-instruction of a word (R127). -/
def decodeLo (w : Word) : Except DecodeError Instr :=
  match loOpcode w with
  | 0x00 => decodeL0 .lnop w
  | 0x01 => decodeLM .ld w
  | 0x02 => decodeLM .ldd w
  | 0x03 => decodeLM .st w
  | 0x04 => decodeLM .std w
  | 0x05 => decodeLP .ldm w
  | 0x06 => decodeLP .lddm w
  | 0x07 => decodeLP .stm w
  | 0x08 => decodeLP .stdm w
  | 0x09 => decodeLA .aupd w
  | 0x0A => decodeLSI w
  | 0x0B => decodeLMV w
  | 0x10 => decodeLJ .jump w
  | 0x11 => decodeLB .bcc w
  | 0x12 => decodeLG .call w
  | 0x13 => decodeLJ .calli w
  | 0x14 => decodeL0 .ret w
  | 0x15 => decodeLDO .doLoop w
  | 0x16 => decodeLDI .doi w
  | 0x17 => decodeL0 .enddo w
  | 0x18 => decodeL0 .sync w
  | 0x19 => decodeLJ .stop w
  | _ => .error .unassignedOpcode

/-- The hi and the lo sub-instruction of a word, or why it is invalid (R102, R128). -/
def decodeWord (w : Word) : Except DecodeError (Instr × Instr) :=
  match decodeHi w, decodeLo w with
  | .ok hi, .ok lo => .ok (hi, lo)
  | .error e, _ => .error e
  | _, .error e => .error e

/-! ## The encoder, from the same tables -/

/-- The hi opcode of a sub-instruction (R126), or its lo opcode (R127). -/
def Instr.opcode : Instr → Nat
  | .hnop => 0x00
  | .fadd _ _ _ _ _ => 0x01
  | .fmul _ _ _ _ _ => 0x02
  | .fmadd _ _ _ _ _ => 0x03
  | .cmadd _ _ _ _ _ => 0x04
  | .fcmpeq _ _ _ => 0x05
  | .fcmplt _ _ _ => 0x06
  | .fcmple _ _ _ => 0x07
  | .fperm _ _ _ _ _ => 0x08
  | .fsin _ _ _ _ => 0x09
  | .fcos _ _ _ _ => 0x0A
  | .frecip _ _ _ _ => 0x0B
  | .flog2 _ _ _ _ => 0x0C
  | .fexp2 _ _ _ _ => 0x0D
  | .fsqrt _ _ _ _ => 0x0E
  | .lnop => 0x00
  | .ld _ _ _ _ _ => 0x01
  | .ldd _ _ _ _ _ => 0x02
  | .st _ _ _ _ _ => 0x03
  | .std _ _ _ _ _ => 0x04
  | .ldm _ _ _ _ => 0x05
  | .lddm _ _ _ _ => 0x06
  | .stm _ _ _ _ => 0x07
  | .stdm _ _ _ _ => 0x08
  | .aupd _ _ => 0x09
  | .seti _ _ _ => 0x0A
  | .move _ _ _ _ => 0x0B
  | .jump _ => 0x10
  | .bcc _ _ _ => 0x11
  | .call _ => 0x12
  | .calli _ => 0x13
  | .ret => 0x14
  | .doLoop _ _ => 0x15
  | .doi _ _ => 0x16
  | .enddo => 0x17
  | .sync => 0x18
  | .stop _ => 0x19

/-- The operand fields of format H3 (R104) as a number of the 64-bit word. -/
def encH3 (p : Bool) (cc : Fin 8) (fd fs ft : Fin 64) : Nat :=
  p.toNat * 2 ^ 55 + cc.val * 2 ^ 52 + fd.val * 2 ^ 44 + fs.val * 2 ^ 38 + ft.val * 2 ^ 32

/-- The operand fields of format H2 (R105). -/
def encH2 (p : Bool) (cc : Fin 8) (fd fs : Fin 64) : Nat :=
  p.toNat * 2 ^ 55 + cc.val * 2 ^ 52 + fd.val * 2 ^ 44 + fs.val * 2 ^ 38

/-- The operand fields of format HC (R106). -/
def encHC (cc : Fin 8) (fs ft : Fin 64) : Nat := cc.val * 2 ^ 52 + fs.val * 2 ^ 38 + ft.val * 2 ^ 32

/-- The operand fields of format LM (R108). -/
def encLM (p : Bool) (cc : Fin 8) (f : Fin 64) (n : Fin 8) (off13 : BitVec 13) : Nat :=
  p.toNat * 2 ^ 25 + cc.val * 2 ^ 22 + f.val * 2 ^ 16 + n.val * 2 ^ 13 + off13.toNat

/-- The operand fields of format LP (R109). -/
def encLP (p : Bool) (cc : Fin 8) (f : Fin 64) (n : Fin 8) : Nat :=
  p.toNat * 2 ^ 25 + cc.val * 2 ^ 22 + f.val * 2 ^ 16 + n.val * 2 ^ 13

/-- The operand fields of a sub-instruction as a number of the 64-bit word, every other bit 0. -/
def Instr.operandBits : Instr → Nat
  | .hnop => 0
  | .fadd p cc fd fs ft => encH3 p cc fd fs ft
  | .fmul p cc fd fs ft => encH3 p cc fd fs ft
  | .fmadd p cc fd fs ft => encH3 p cc fd fs ft
  | .cmadd p cc fd fs ft => encH3 p cc fd fs ft
  | .fcmpeq cc fs ft => encHC cc fs ft
  | .fcmplt cc fs ft => encHC cc fs ft
  | .fcmple cc fs ft => encHC cc fs ft
  | .fperm p cc fd fs ft => encH3 p cc fd fs ft
  | .fsin p cc fd fs => encH2 p cc fd fs
  | .fcos p cc fd fs => encH2 p cc fd fs
  | .frecip p cc fd fs => encH2 p cc fd fs
  | .flog2 p cc fd fs => encH2 p cc fd fs
  | .fexp2 p cc fd fs => encH2 p cc fd fs
  | .fsqrt p cc fd fs => encH2 p cc fd fs
  | .lnop => 0
  | .ld p cc f n off13 => encLM p cc f n off13
  | .ldd p cc f n off13 => encLM p cc f n off13
  | .st p cc f n off13 => encLM p cc f n off13
  | .std p cc f n off13 => encLM p cc f n off13
  | .ldm p cc f n => encLP p cc f n
  | .lddm p cc f n => encLP p cc f n
  | .stm p cc f n => encLP p cc f n
  | .stdm p cc f n => encLP p cc f n
  | .aupd n off13 => n.val * 2 ^ 13 + off13.toNat
  | .seti rd u imm16 => rd.number * 2 ^ 17 + u.toNat * 2 ^ 16 + imm16.toNat
  | .move rd rs sec bc => rd.number * 2 ^ 17 + rs.number * 2 ^ 8 + sec.val * 2 ^ 6 + bc.toNat * 2 ^ 5
  | .jump imm16 => imm16.toNat
  | .bcc all cc imm16 => all.toNat * 2 ^ 25 + cc.val * 2 ^ 22 + imm16.toNat
  | .call g => g.val * 2 ^ 16
  | .calli imm16 => imm16.toNat
  | .ret => 0
  | .doLoop g end16 => g.val * 2 ^ 16 + end16.toNat
  | .doi count10 end16 => count10.toNat * 2 ^ 16 + end16.toNat
  | .enddo => 0
  | .sync => 0
  | .stop code16 => code16.toNat

/-- The word of one sub-instruction with the other half a no-operation (R100, R107, R116), as a number. -/
def Instr.bits (i : Instr) : Nat :=
  if i.isHi then i.opcode * 2 ^ 56 + i.operandBits else i.opcode * 2 ^ 26 + i.operandBits

/-- The word of one sub-instruction, the other half `HNOP` or `LNOP` (R100). -/
def encode (i : Instr) : Word := BitVec.ofNat 64 i.bits

/-- The word of a hi and a lo sub-instruction (R100). -/
def encodeWord (hi lo : Instr) : Word := BitVec.ofNat 64 (hi.bits + lo.bits)

/-- The 64-bit word whose low `nbits` bits are those of `w` and whose other bits are 0. -/
def tableWord (nbits w : Nat) : Word := BitVec.ofNat 64 (w % 2 ^ nbits)

/-- The sub-instruction a row's word holds: the lo one where only the lo half is given or the hi half is `HNOP` and the
lo half is not `LNOP`, else the hi one (assumption log 16). -/
def decodeTableWord (nbits w : Nat) : Option Instr :=
  match decodeWord (tableWord nbits w) with
  | .error _ => none
  | .ok (hi, lo) =>
    if nbits ≤ 32 then some lo
    else match hi, lo with
      | .hnop, .lnop => some .hnop
      | .hnop, l => some l
      | h, _ => some h

end Sys2Proof
end

