-- ==== Sys2Proof/Machine/Operands.lean ====
section
/-! DEFINITION. Operand forms: predication (40_machine.md R170), the registers, placement and masks of register
numbers (44_moves.md R344), the source of `MOVE` (R343) and the addresses of memory operands (42_memory_ops.md R261). -/

namespace Sys2Proof.Machine

/-- `Active(e, s)`: not predicated, or bit `cc` of the section's FCCR read through the bypass network is set
(40_machine.md R170). -/
def sectionActive (p : Bool) (cc : Fin 8) (sec : Sec) (s : State) : Bool :=
  !p || (readReg (.fccr sec) s).getLsbD cc.val

/-- The register a register number names, in section `sec` where it is per section (44_moves.md R344). -/
def regOf (r : RegName) (sec : Sec) : Reg :=
  match r with
  | .fprHalf f _ => .fpr sec f
  | .gpr g => .gpr g
  | .an n => .an n
  | .nn n => .nn n
  | .mn n => .mn n
  | .fccr => .fccr sec
  | .fcsr => .fcsr sec
  | .pc => .pc
  | .status => .status
  | .control => .control
  | .commLo => .comm
  | .commHi => .comm
  | .stopcode => .stopcode
  | .lc => .lc
  | .la => .la
  | .lsp => .lsp
  | .psp => .psp
  | .rind => .rind
  | .rstep => .rstep
  | .rmask => .rmask

/-- Whether a register number names the upper 32 bits of a 64-bit register (44_moves.md R344). -/
def upperHalf (r : RegName) : Bool :=
  match r with
  | .fprHalf _ h => h
  | .commHi => true
  | _ => false

/-- `Place(rd, v)` (44_moves.md R344). -/
def place (r : RegName) (v : Word) : Word := if upperHalf r then v <<< 32 else v

/-- The `w` ones of a `w`-bit register, as a value before placement (44_moves.md R342, R343). -/
def ones (r : RegName) : Word := BitVec.ofNat 64 (2 ^ r.width - 1)

/-- `WMask(rd)` (44_moves.md R344); of a register that is no destination, 0. -/
def wmask (r : RegName) : Word :=
  match r with
  | .fprHalf _ h => if h then 0xFFFFFFFF00000000 else 0x00000000FFFFFFFF
  | .gpr _ => 0xFFFFFFFF
  | .rind => 0xFFFFFFFF
  | .rstep => 0xFFFFFFFF
  | .rmask => 0xFFFFFFFF
  | .control => 0xFFFFFFFF
  | .stopcode => 0xFFFFFFFF
  | .fcsr => 0x3F
  | .an _ => 0xFFFF
  | .nn _ => 0xFFFF
  | .mn _ => 0xFFFF
  | .fccr => 0xFF
  | .status => 0x00003FF8
  | .commLo => 0x00000000FFFFFFFF
  | .commHi => 0xFFFFFFFF00000000
  | .pc => 0
  | .lc => 0
  | .la => 0
  | .lsp => 0
  | .psp => 0

/-- One write of `SETI` or `MOVE` (44_moves.md R342, R343): value and mask placed, the mask cut to `WMask`. -/
def schedTarget (rd : RegName) (v m : Word) (sec : Sec) (s : State) : Res :=
  sched (regOf rd sec) (place rd v) (place rd m &&& wmask rd) s.params.moveDelay true s

/-- The writes of `SETI` and `MOVE` to every target: a per-section register in all four sections when `bc`, else in
section `sec`; a global register once (44_moves.md R342, R343). -/
def schedTargets (rd : RegName) (v m : Word) (bc : Bool) (sec : Sec) (s : State) : Res :=
  if rd.perSection && bc then forSections (schedTarget rd v m) s else schedTarget rd v m sec s

/-- The 32-bit value `MOVE` reads, zero-extended (44_moves.md R343). -/
def moveSource (rs : RegName) (sec : Sec) (s : State) : BitVec 32 :=
  match rs with
  | .pc => s.cur.latch.pcAtIssue.setWidth 32
  | .status => statusValue ((readReg .status s).setWidth 32) s
  | r => if upperHalf r then (readReg (regOf r sec) s >>> 32).setWidth 32 else (readReg (regOf r sec) s).setWidth 32

/-- `Read(FPR[s][i])` (00_scope.md R9). -/
def readFpr (sec : Sec) (i : Fin 64) (s : State) : Word := readReg (.fpr sec i) s

/-- `Read(GPR[i])`. -/
def readGpr (i : Fin 16) (s : State) : BitVec 32 := (readReg (.gpr i) s).setWidth 32

/-- `Read(AN[i])`. -/
def readAn (i : Fin 8) (s : State) : Addr := (readReg (.an i) s).setWidth 16

/-- `Read(NN[i])`. -/
def readNn (i : Fin 8) (s : State) : Addr := (readReg (.nn i) s).setWidth 16

/-- `Read(MN[i])`. -/
def readMn (i : Fin 8) (s : State) : Addr := (readReg (.mn i) s).setWidth 16

/-- The second register of a pair, `(f + 1) mod 64` (42_memory_ops.md R261). -/
def pairOf (f : Fin 64) : Fin 64 := f + 1

/-- The addressing mode of a memory sub-instruction (30_encoding.md R108, R109). -/
inductive AddrMode where
  /-- LM: base plus a signed word offset; the address register keeps its value. -/
  | offset (off13 : BitVec 13)
  /-- LP: the base; the address register is updated by `AguModify`. -/
  | postModify
  deriving DecidableEq, Repr

end Sys2Proof.Machine
end

