-- ==== Sys2Proof/Machine/RefFloat.lean ====
section
/-! DEFINITION. The spec's reference arithmetic library (41_arith.md R225 to R246): IEEE 754 binary32 in each half,
round to nearest even, no flush, canonical quiet NaN. It is the spec's own choice for its test vectors, not a claim about
the ASIC; the model uses it only where `Params.arithLib` is `.reference` (assumption log 2). -/

namespace Sys2Proof.Machine

/-- A lane result: the binary32 value and its flags (41_arith.md R225). -/
abbrev LaneResult := BitVec 32 × FpFlags

/-- Flag X, inexact (10_state.md R25). -/
def flagX : FpFlags := 0x01
/-- Flag U, underflow. -/
def flagU : FpFlags := 0x02
/-- Flag O, overflow. -/
def flagO : FpFlags := 0x04
/-- Flag Z, divide by zero. -/
def flagZ : FpFlags := 0x08
/-- Flag V, invalid operation. -/
def flagV : FpFlags := 0x10
/-- Flag D, denormal. -/
def flagD : FpFlags := 0x20

/-- `f` if `b`, else no flag. -/
def flagIf (b : Bool) (f : FpFlags) : FpFlags := if b then f else 0

/-- The canonical quiet NaN (R225). -/
def quietNaN : BitVec 32 := 0x7FC00000

/-- The sign bit. -/
def f32Sign (x : BitVec 32) : Bool := x.getLsbD 31

/-- The biased exponent. -/
def f32Exp (x : BitVec 32) : Nat := (x.extractLsb' 23 8).toNat

/-- The fraction field. -/
def f32Frac (x : BitVec 32) : Nat := (x.extractLsb' 0 23).toNat

/-- A NaN. -/
def f32IsNaN (x : BitVec 32) : Bool := f32Exp x == 255 && f32Frac x != 0

/-- A signalling NaN: the top fraction bit is clear. -/
def f32IsSNaN (x : BitVec 32) : Bool := f32IsNaN x && !x.getLsbD 22

/-- An infinity. -/
def f32IsInf (x : BitVec 32) : Bool := f32Exp x == 255 && f32Frac x == 0

/-- A zero. -/
def f32IsZero (x : BitVec 32) : Bool := f32Exp x == 0 && f32Frac x == 0

/-- A subnormal number. -/
def f32IsSub (x : BitVec 32) : Bool := f32Exp x == 0 && f32Frac x != 0

/-- The integer significand `m` of a finite value `m * 2^e`. -/
def f32Sig (x : BitVec 32) : Nat := if f32Exp x = 0 then f32Frac x else f32Frac x + 2 ^ 23

/-- The exponent `e` of a finite value `m * 2^e`. -/
def f32Pow (x : BitVec 32) : Int := (max (f32Exp x) 1 : Nat) - 150

/-- The value with a sign and the magnitude bits 30:0. -/
def f32Make (sign : Bool) (mag : Nat) : BitVec 32 := BitVec.ofNat 32 (sign.toNat * 2 ^ 31 + mag)

/-- Zero with a sign. -/
def f32Zero (sign : Bool) : BitVec 32 := f32Make sign 0

/-- Infinity with a sign. -/
def f32Inf (sign : Bool) : BitVec 32 := f32Make sign (255 * 2 ^ 23)

/-- `m / 2^sh` rounded to the nearest integer, ties to even (exact for `sh ≤ 0`), and whether that was inexact. -/
def roundShift (m : Nat) (sh : Int) : Nat × Bool :=
  if sh ≤ 0 then (m * 2 ^ sh.natAbs, false)
  else
    let d := 2 ^ sh.natAbs
    let q := m / d
    let r := m % d
    (if 2 * r > d ∨ (2 * r = d ∧ q % 2 = 1) then q + 1 else q, r != 0)

/-- `RoundBinary32` of `(-1)^sign * m * 2^e`, `m > 0`, with the flags X, U, O; underflow is tiny after rounding and
inexact (41_arith.md R225). A nonzero value too long to write exactly is given with its lowest bit set. -/
def roundBinary32 (sign : Bool) (m : Nat) (e : Int) : LaneResult :=
  let sh : Int := (Nat.log2 m : Int) - 23
  let free := roundShift m sh
  let tiny : Bool := decide (e + sh + 23 + (if free.1 = 2 ^ 24 then 1 else 0) < -126)
  let sh' : Int := max sh (-149 - e)
  let r := roundShift m sh'
  let lsb : Int := e + sh'
  let mag : Nat := if r.1 < 2 ^ 23 then r.1 else (lsb + 149).toNat * 2 ^ 23 + r.1
  if mag ≥ 255 * 2 ^ 23 then (f32Inf sign, flagO ||| flagX)
  else (f32Make sign mag, flagIf r.2 flagX ||| flagIf (tiny && r.2) flagU)

/-- The flags of a NaN or subnormal input that every lane operation has (R225): V for a signalling NaN, D for a
subnormal. -/
def inputFlags (x : BitVec 32) : FpFlags := flagIf (f32IsSNaN x) flagV ||| flagIf (f32IsSub x) flagD

/-- Add flags to a lane result. -/
def withFlags (f : FpFlags) (r : LaneResult) : LaneResult := (r.1, r.2 ||| f)

/-- The lane function of `FADD` (41_arith.md R227). -/
def laneAdd (x y : BitVec 32) : LaneResult :=
  withFlags (inputFlags x ||| inputFlags y) <|
    if f32IsNaN x || f32IsNaN y then (quietNaN, 0)
    else if f32IsInf x then
      (if f32IsInf y && f32Sign x != f32Sign y then (quietNaN, flagV) else (x, 0))
    else if f32IsInf y then (y, 0)
    else
      let e := min (f32Pow x) (f32Pow y)
      let a : Int := (f32Sig x * 2 ^ (f32Pow x - e).toNat : Nat)
      let b : Int := (f32Sig y * 2 ^ (f32Pow y - e).toNat : Nat)
      let v : Int := (if f32Sign x then -a else a) + (if f32Sign y then -b else b)
      if v = 0 then (f32Zero (f32Sign x && f32Sign y), 0)
      else roundBinary32 (decide (v < 0)) v.natAbs e

/-- Change the sign of a lane value, used for `a - b = a + (-b)` (41_arith.md R233). -/
def laneNeg (x : BitVec 32) : BitVec 32 := x ^^^ 0x80000000

/-- Binary32 subtraction (41_arith.md R233). -/
def laneSub (x y : BitVec 32) : LaneResult := laneAdd x (laneNeg y)

/-- The lane function of `FMUL` (41_arith.md R229). -/
def laneMul (x y : BitVec 32) : LaneResult :=
  let sign := f32Sign x != f32Sign y
  withFlags (inputFlags x ||| inputFlags y) <|
    if f32IsNaN x || f32IsNaN y then (quietNaN, 0)
    else if (f32IsInf x && f32IsZero y) || (f32IsZero x && f32IsInf y) then (quietNaN, flagV)
    else if f32IsInf x || f32IsInf y then (f32Inf sign, 0)
    else if f32IsZero x || f32IsZero y then (f32Zero sign, 0)
    else roundBinary32 sign (f32Sig x * f32Sig y) (f32Pow x + f32Pow y)

/-- The lane function of `FMADD` (41_arith.md R231): two roundings, the flags of both operations ORed. DEDUCED: a
subnormal product is a subnormal input of the addition and sets D (assumption log 6). -/
def laneMadd (z x y : BitVec 32) : LaneResult :=
  let p := laneMul x y
  withFlags p.2 (laneAdd z p.1)

/-- The bits of `⌊√n⌋` below bit `k`, given those above (`r`). -/
def isqrtFrom (k : Nat) (n r : Nat) : Nat :=
  match k with
  | 0 => r
  | k + 1 => let t := r + 2 ^ k; isqrtFrom k n (if t * t ≤ n then t else r)

/-- `⌊√n⌋` for `n < 2^128`. -/
def isqrt (n : Nat) : Nat := isqrtFrom 64 n 0

/-- The lane function of `FRECIP` (41_arith.md R242, R246): correctly rounded. -/
def laneRecip (x : BitVec 32) : LaneResult :=
  withFlags (inputFlags x) <|
    if f32IsNaN x then (quietNaN, 0)
    else if f32IsInf x then (f32Zero (f32Sign x), 0)
    else if f32IsZero x then (f32Inf (f32Sign x), flagZ)
    else
      let m := f32Sig x
      let q := 2 ^ 60 / m
      let sticky := if 2 ^ 60 % m = 0 then 0 else 1
      roundBinary32 (f32Sign x) (2 * q + sticky) (-61 - f32Pow x)

/-- The lane function of `FSQRT` (41_arith.md R245, R246): correctly rounded. -/
def laneSqrt (x : BitVec 32) : LaneResult :=
  withFlags (inputFlags x) <|
    if f32IsNaN x then (quietNaN, 0)
    else if f32IsZero x then (x, 0)
    else if f32Sign x then (quietNaN, flagV)
    else if f32IsInf x then (x, 0)
    else
      let odd := f32Pow x % 2 ≠ 0
      let m := (if odd then 2 * f32Sig x else f32Sig x) * 2 ^ 60
      let e := if odd then f32Pow x - 1 else f32Pow x
      let q := isqrt m
      let sticky := if q * q = m then 0 else 1
      roundBinary32 false (2 * q + sticky) (e / 2 - 31)

/-- `-x` or `x` for an integer, as a binary32. -/
def f32OfInt (v : Int) : LaneResult :=
  if v = 0 then (f32Zero false, 0) else roundBinary32 (decide (v < 0)) v.natAbs 0

/-- The lane function of `FSIN` (41_arith.md R240, R246): the special cases; else any value, any flags. -/
def laneSin (x : BitVec 32) : LaneResult :=
  if f32IsNaN x then (quietNaN, inputFlags x)
  else if f32IsInf x then (quietNaN, flagV)
  else if f32IsZero x then (x, 0)
  else Config.elementary .fsin x

/-- The lane function of `FCOS` (41_arith.md R241, R246). -/
def laneCos (x : BitVec 32) : LaneResult :=
  if f32IsNaN x then (quietNaN, inputFlags x)
  else if f32IsInf x then (quietNaN, flagV)
  else if f32IsZero x then (0x3F800000, 0)
  else Config.elementary .fcos x

/-- The lane function of `FLOG2` (41_arith.md R243, R246): exact on powers of two. -/
def laneLog2 (x : BitVec 32) : LaneResult :=
  if f32IsNaN x then (quietNaN, inputFlags x)
  else if f32IsZero x then (f32Inf true, flagZ)
  else if f32Sign x then (quietNaN, flagV ||| inputFlags x)
  else if f32IsInf x then (x, 0)
  else if 2 ^ Nat.log2 (f32Sig x) = f32Sig x then
    withFlags (inputFlags x) (f32OfInt (Nat.log2 (f32Sig x) + f32Pow x))
  else Config.elementary .flog2 x

/-- The integer a finite value is, if it is one. -/
def f32ToInt (x : BitVec 32) : Option Int :=
  let d := 2 ^ (-(f32Pow x)).toNat
  if f32Sig x % d = 0 then
    let v : Int := (f32Sig x / d * 2 ^ (f32Pow x).toNat : Nat)
    some (if f32Sign x then -v else v)
  else none

/-- The lane function of `FEXP2` (41_arith.md R244, R246): exact on integers whose power of two is a normal binary32;
at 128 and above it overflows with O and X. -/
def laneExp2 (x : BitVec 32) : LaneResult :=
  if f32IsNaN x then (quietNaN, inputFlags x)
  else if f32IsInf x then (if f32Sign x then f32Zero false else x, 0)
  else if f32IsZero x then (0x3F800000, 0)
  else if f32Sign x = false ∧ 134 ≤ f32Exp x then (f32Inf false, flagO ||| flagX)
  else
    match f32ToInt x with
    | some k => if -126 ≤ k ∧ k ≤ 127 then (f32Make false ((k + 127).toNat * 2 ^ 23), 0) else Config.elementary .fexp2 x
    | none => Config.elementary .fexp2 x

/-- The order of two values that are no NaN: an integer that grows with the value, equal for the two zeros. -/
def laneKey (x : BitVec 32) : Int :=
  let mag : Int := (x.extractLsb' 0 31).toNat
  if f32Sign x then -mag else mag

/-- The lane predicates of the compares (41_arith.md R235 to R237): `FCMPEQ` quiet, `FCMPLT` and `FCMPLE` signalling;
D for a subnormal input. -/
def laneCmp (op : CmpOp) (x y : BitVec 32) : Bool × FpFlags :=
  let nan := f32IsNaN x || f32IsNaN y
  let invalid : Bool := match op with
    | .eq => f32IsSNaN x || f32IsSNaN y
    | .lt => nan
    | .le => nan
  let holds : Bool := match op with
    | .eq => laneKey x == laneKey y
    | .lt => decide (laneKey x < laneKey y)
    | .le => decide (laneKey x ≤ laneKey y)
  (!nan && holds, flagIf invalid flagV ||| flagIf (f32IsSub x || f32IsSub y) flagD)

/-- Half 0 of a floating-register value (10_state.md R22). -/
def half0 (x : Word) : BitVec 32 := x.extractLsb' 0 32

/-- Half 1 of a floating-register value (10_state.md R22). -/
def half1 (x : Word) : BitVec 32 := x.extractLsb' 32 32

/-- Two lane results as one register value, the flags ORed (41_arith.md R225). -/
def pairLanes (h1 h0 : LaneResult) : Word × FpFlags := (h1.1 ++ h0.1, h1.2 ||| h0.2)

/-- The reference function of `CMADD` (41_arith.md R233): real part in half 0. -/
def complexMadd (x y z : Word) : Word × FpFlags :=
  let rr := laneMul (half0 x) (half0 y)
  let ii := laneMul (half1 x) (half1 y)
  let ri := laneMul (half0 x) (half1 y)
  let ir := laneMul (half1 x) (half0 y)
  let d := laneSub rr.1 ii.1
  let a := laneAdd ri.1 ir.1
  let re := laneAdd (half0 z) d.1
  let im := laneAdd (half1 z) a.1
  (im.1 ++ re.1, rr.2 ||| ii.2 ||| ri.2 ||| ir.2 ||| d.2 ||| a.2 ||| re.2 ||| im.2)

/-- The reference `ArithLib` of the operations that write a register (41_arith.md R225 to R246). -/
def referenceArith (op : ArithOp) (x y z : Word) : Word × FpFlags :=
  match op with
  | .fadd => pairLanes (laneAdd (half1 x) (half1 y)) (laneAdd (half0 x) (half0 y))
  | .fmul => pairLanes (laneMul (half1 x) (half1 y)) (laneMul (half0 x) (half0 y))
  | .fmadd => pairLanes (laneMadd (half1 z) (half1 x) (half1 y)) (laneMadd (half0 z) (half0 x) (half0 y))
  | .cmadd => complexMadd x y z
  | .fsin => pairLanes (laneSin (half1 x)) (laneSin (half0 x))
  | .fcos => pairLanes (laneCos (half1 x)) (laneCos (half0 x))
  | .frecip => pairLanes (laneRecip (half1 x)) (laneRecip (half0 x))
  | .flog2 => pairLanes (laneLog2 (half1 x)) (laneLog2 (half0 x))
  | .fexp2 => pairLanes (laneExp2 (half1 x)) (laneExp2 (half0 x))
  | .fsqrt => pairLanes (laneSqrt (half1 x)) (laneSqrt (half0 x))

/-- The reference `ArithLib` of the compares (41_arith.md R234 to R237): bit 0 from half 0, bit 1 from half 1. -/
def referenceCmp (op : CmpOp) (x y : Word) : BitVec 2 × FpFlags :=
  let c0 := laneCmp op (half0 x) (half0 y)
  let c1 := laneCmp op (half1 x) (half1 y)
  (BitVec.ofBool c1.1 ++ BitVec.ofBool c0.1, c1.2 ||| c0.2)

end Sys2Proof.Machine
end

