-- ==== Sys2Proof/Machine/Library.lean ====
section
/-! DEFINITION. The configuration functions of 00_scope.md R7: the reference definition, or a member of an opaque family
(assumption log 2). -/

namespace Sys2Proof.Machine

/-- `ArithLib` of the operations that write a register (41_arith.md R220). -/
def arithLib (c : FnChoice) (op : ArithOp) (x y z : Word) : Word × FpFlags :=
  match c with
  | .reference => referenceArith op x y z
  | .other k => Config.arithLib k op x y z

/-- `ArithLib` of the compares (41_arith.md R220, R234). -/
def arithCmp (c : FnChoice) (op : CmpOp) (x y : Word) : BitVec 2 × FpFlags :=
  match c with
  | .reference => referenceCmp op x y
  | .other k => Config.arithCmp k op x y

/-- `AdjustFlags` (41_arith.md R222); the reference is the identity. -/
def adjustFlags (c : FnChoice) (op : HiOp) (f : FpFlags) : FpFlags :=
  match c with
  | .reference => f
  | .other k => Config.adjustFlags k op f

/-- Element `E[k]` of the 16 halves of `X` and `Y` (41_arith.md R239). -/
def permElement (X Y : Vector Word 4) (k : Fin 16) : BitVec 32 :=
  let t : Fin 4 := ⟨k.val / 2 % 4, Nat.mod_lt _ (by decide)⟩
  let w : Word := if k.val < 8 then X[t] else Y[t]
  if k.val % 2 = 0 then half0 w else half1 w

/-- The element number of result half `h` of section `sec` (41_arith.md R239). -/
def permIndex (sec : Sec) (h : Nat) (ri rs rm : Half) : Fin 16 :=
  ((((ri + BitVec.ofNat 32 (2 * sec.val + h) * rs) &&& rm) &&& 15).setWidth 4).toFin

/-- The reference `Perm` (41_arith.md R239). -/
def referencePerm (sec : Sec) (X Y : Vector Word 4) (ri rs rm : Half) : Word :=
  permElement X Y (permIndex sec 1 ri rs rm) ++ permElement X Y (permIndex sec 0 ri rs rm)

/-- `Perm` (41_arith.md R238, R239). -/
def permLib (c : FnChoice) (sec : Sec) (X Y : Vector Word 4) (ri rs rm : Half) : Word :=
  match c with
  | .reference => referencePerm sec X Y ri rs rm
  | .other k => Config.perm k sec X Y ri rs rm

/-- The reference `AguModify` (42_memory_ops.md R260). -/
def referenceAgu (an step mn : Addr) : Addr :=
  if mn = 0 then an + step else (an &&& ~~~mn) ||| ((an + step) &&& mn)

/-- `AguModify` (42_memory_ops.md R260). -/
def aguModify (c : FnChoice) (an step mn : Addr) : Addr :=
  match c with
  | .reference => referenceAgu an step mn
  | .other k => Config.aguModify k an step mn

end Sys2Proof.Machine
end

