-- ==== Sys2Proof/Machine/Arith.lean ====
section
/-! DEFINITION. The meanings of the hi sub-instructions (41_arith.md; `HNOP` is 44_moves.md R340). A meaning executes
the stage `s.cur.stage` of its sub-instruction (40_machine.md R163, R164): stage 1 does the work, the others nothing. -/

namespace Sys2Proof.Machine

/-- A sub-instruction whose handler runs in stage 1 and whose other stages do nothing (40_machine.md R164, R166). -/
def inStage1 (handler : State → Res) (s : State) : Res :=
  if s.cur.stage = 1 then handler s else .next s

/-- One section of `ExecHi` (41_arith.md R223); `ft` is absent in format H2, where `y` is 0. -/
def hiSection (op : ArithOp) (p : Bool) (cc : Fin 8) (fd fs : Fin 64) (ft : Option (Fin 64)) (sec : Sec) (s : State) :
    Res :=
  if sectionActive p cc sec s then
    let y := match ft with
      | some i => readFpr sec i s
      | none => 0
    let r := arithLib s.params.arithLib op (readFpr sec fs s) y (readFpr sec fd s)
    let d := s.params.lat.get (.arith op)
    let b := s.params.bypass.get (.arith op)
    andThen (sched (.fpr sec fd) r.1 fullMask d b s) fun s =>
      writeFlags sec (adjustFlags s.params.adjustFlags (.arith op) r.2) d b s
  else .next s

/-- `ExecHi` (41_arith.md R223). -/
def execHi (op : ArithOp) (p : Bool) (cc : Fin 8) (fd fs : Fin 64) (ft : Option (Fin 64)) (s : State) : Res :=
  inStage1 (forSections (hiSection op p cc fd fs ft)) s

/-- One section of `ExecCmp` (41_arith.md R234). -/
def cmpSection (op : CmpOp) (cc : Fin 8) (fs ft : Fin 64) (sec : Sec) (s : State) : Res :=
  let r := arithCmp s.params.arithLib op (readFpr sec fs s) (readFpr sec ft s)
  let d := s.params.lat.get (.cmp op)
  let b := s.params.bypass.get (.cmp op)
  andThen (sched (.fccr sec) ((r.1.setWidth 8 <<< cc.val).setWidth 64) (((3 : BitVec 8) <<< cc.val).setWidth 64) d b s)
    fun s => writeFlags sec (adjustFlags s.params.adjustFlags (.cmp op) r.2) d b s

/-- `ExecCmp` (41_arith.md R234). -/
def execCmp (op : CmpOp) (cc : Fin 8) (fs ft : Fin 64) (s : State) : Res :=
  inStage1 (forSections (cmpSection op cc fs ft)) s

/-- The values of one floating register in the four sections (41_arith.md R238). -/
def readAllSections (f : Fin 64) (s : State) : Vector Word 4 :=
  #v[readFpr 0 f s, readFpr 1 f s, readFpr 2 f s, readFpr 3 f s]

/-- The 32-bit value of an index register (10_state.md R28). -/
def readIdx (r : Reg) (s : State) : Half := (readReg r s).setWidth 32

/-- One section of `FPERM`, the operands read before any write (41_arith.md R238). -/
def permSection (p : Bool) (cc : Fin 8) (fd : Fin 64) (X Y : Vector Word 4) (ri rs rm : Half) (sec : Sec) (s : State) :
    Res :=
  if sectionActive p cc sec s then
    sched (.fpr sec fd) (permLib s.params.perm sec X Y ri rs rm) fullMask (s.params.lat.get .perm)
      (s.params.bypass.get .perm) s
  else .next s

/-- The stage-1 handler of `FPERM` (41_arith.md R238). -/
def permHandler (p : Bool) (cc : Fin 8) (fd fs ft : Fin 64) (s : State) : Res :=
  forSections
    (permSection p cc fd (readAllSections fs s) (readAllSections ft s) (readIdx .rind s) (readIdx .rstep s)
      (readIdx .rmask s)) s

/-- `HNOP` (44_moves.md R340): every stage does nothing. -/
def execHnop (s : State) : Res := .next s

/-- `FADD` (41_arith.md R226). -/
def execFadd (p : Bool) (cc : Fin 8) (fd fs ft : Fin 64) (s : State) : Res := execHi .fadd p cc fd fs (some ft) s

/-- `FMUL` (41_arith.md R228). -/
def execFmul (p : Bool) (cc : Fin 8) (fd fs ft : Fin 64) (s : State) : Res := execHi .fmul p cc fd fs (some ft) s

/-- `FMADD` (41_arith.md R230). -/
def execFmadd (p : Bool) (cc : Fin 8) (fd fs ft : Fin 64) (s : State) : Res := execHi .fmadd p cc fd fs (some ft) s

/-- `CMADD` (41_arith.md R232). -/
def execCmadd (p : Bool) (cc : Fin 8) (fd fs ft : Fin 64) (s : State) : Res := execHi .cmadd p cc fd fs (some ft) s

/-- `FCMPEQ` (41_arith.md R235). -/
def execFcmpeq (cc : Fin 8) (fs ft : Fin 64) (s : State) : Res := execCmp .eq cc fs ft s

/-- `FCMPLT` (41_arith.md R236). -/
def execFcmplt (cc : Fin 8) (fs ft : Fin 64) (s : State) : Res := execCmp .lt cc fs ft s

/-- `FCMPLE` (41_arith.md R237). -/
def execFcmple (cc : Fin 8) (fs ft : Fin 64) (s : State) : Res := execCmp .le cc fs ft s

/-- `FPERM` (41_arith.md R238). -/
def execFperm (p : Bool) (cc : Fin 8) (fd fs ft : Fin 64) (s : State) : Res := inStage1 (permHandler p cc fd fs ft) s

/-- `FSIN` (41_arith.md R240). -/
def execFsin (p : Bool) (cc : Fin 8) (fd fs : Fin 64) (s : State) : Res := execHi .fsin p cc fd fs none s

/-- `FCOS` (41_arith.md R241). -/
def execFcos (p : Bool) (cc : Fin 8) (fd fs : Fin 64) (s : State) : Res := execHi .fcos p cc fd fs none s

/-- `FRECIP` (41_arith.md R242). -/
def execFrecip (p : Bool) (cc : Fin 8) (fd fs : Fin 64) (s : State) : Res := execHi .frecip p cc fd fs none s

/-- `FLOG2` (41_arith.md R243). -/
def execFlog2 (p : Bool) (cc : Fin 8) (fd fs : Fin 64) (s : State) : Res := execHi .flog2 p cc fd fs none s

/-- `FEXP2` (41_arith.md R244). -/
def execFexp2 (p : Bool) (cc : Fin 8) (fd fs : Fin 64) (s : State) : Res := execHi .fexp2 p cc fd fs none s

/-- `FSQRT` (41_arith.md R245). -/
def execFsqrt (p : Bool) (cc : Fin 8) (fd fs : Fin 64) (s : State) : Res := execHi .fsqrt p cc fd fs none s

end Sys2Proof.Machine
end

