-- ==== Sys2Proof/Machine/Control.lean ====
section
/-! DEFINITION. The meanings of the control-transfer, loop and synchronisation sub-instructions (43_control.md). A
transfer handler only requests a transfer; the step latches it and the next PC update applies it (40_machine.md R190 to
R197, in Sys2Proof/Machine/PcUpdate.lean). -/

namespace Sys2Proof.Machine

/-- `xfer_req := (kind, target)` (43_control.md R290 to R296). -/
def requestXfer (kind : XferKind) (target : Addr) (s : State) : Res :=
  .next { s with xferReq := some { kind := kind, target := target } }

/-- `JUMP` (43_control.md R290). -/
def execJump (imm16 : Addr) (s : State) : Res := inStage1 (requestXfer .jump imm16) s

/-- The condition of `BCC`: bit `cc` of FCCR set in all four sections, or in any (43_control.md R292). -/
def bccTaken (all : Bool) (cc : Fin 8) (s : State) : Bool :=
  let b (sec : Sec) : Bool := (readReg (.fccr sec) s).getLsbD cc.val
  if all then b 0 && b 1 && b 2 && b 3 else b 0 || b 1 || b 2 || b 3

/-- The stage-1 handler of `BCC` (43_control.md R292). -/
def bccHandler (all : Bool) (cc : Fin 8) (imm16 : Addr) (s : State) : Res :=
  if bccTaken all cc s then requestXfer .jump imm16 s else .next s

/-- `BCC` (43_control.md R292). -/
def execBcc (all : Bool) (cc : Fin 8) (imm16 : Addr) (s : State) : Res := inStage1 (bccHandler all cc imm16) s

/-- The stage-1 handler of `CALL`: the low 16 bits of the general register (43_control.md R294). -/
def callHandler (g : Fin 16) (s : State) : Res := requestXfer .call ((readGpr g s).setWidth 16) s

/-- `CALL` (43_control.md R294). -/
def execCall (g : Fin 16) (s : State) : Res := inStage1 (callHandler g) s

/-- `CALLI` (43_control.md R295). -/
def execCalli (imm16 : Addr) (s : State) : Res := inStage1 (requestXfer .call imm16) s

/-- `RET` (43_control.md R296). -/
def execRet (s : State) : Res := inStage1 (requestXfer .ret 0) s

/-- The stage-1 handler of `DO` and `DOI` with end address `stop` and trip count `n` (43_control.md R297; 40_machine.md
R200, R201, R205, R206). The comparisons are of integers, without wrap. -/
def doCommon (stop : Addr) (n : BitVec 32) (s : State) : Res :=
  if s.cur.delaySlot then .fault .loopControlInDelaySlot
  else if stop.toNat < s.cur.latch.pcAtIssue.toNat + 2 then .fault .loopBodyTooShort
  else if 0 < s.loopDepth ∧ (topFrame s).stop.toNat < stop.toNat + 2 then .fault .nestedLoopEnd
  else if n = 0 then
    andThen (requestXfer .jump (stop + 1) s) fun s => .next { s with annulNext := true }
  else if s.loopDepth = s.params.loopMaxDepth then setSticky loopOvfBit s
  else loopPush (s.cur.latch.pcAtIssue + 1) stop n s

/-- The stage-1 handler of `DO`: the count is read through the bypass network (43_control.md R297). -/
def doHandler (g : Fin 16) (end16 : Addr) (s : State) : Res := doCommon end16 (readGpr g s) s

/-- `DO` (43_control.md R297). -/
def execDo (g : Fin 16) (end16 : Addr) (s : State) : Res := inStage1 (doHandler g end16) s

/-- `DOI` (43_control.md R298). -/
def execDoi (count10 : BitVec 10) (end16 : Addr) (s : State) : Res :=
  inStage1 (doCommon end16 (count10.setWidth 32)) s

/-- Whether a loop-back transfer is latched (43_control.md R299). -/
def loopBackPending (s : State) : Bool :=
  match s.xferPending with
  | some x => x.kind == .loop
  | none => false

/-- The stage-1 handler of `ENDDO` (43_control.md R299). -/
def enddoHandler (s : State) : Res :=
  if s.cur.delaySlot then .fault .loopControlInDelaySlot
  else if s.popPending || loopBackPending s then .fault .endDoConflict
  else if s.loopDepth = 0 then setSticky loopUnfBit s
  else loopPop 0 s

/-- `ENDDO` (43_control.md R299). -/
def execEnddo (s : State) : Res := inStage1 enddoHandler s

/-- Start a drain of `DRAIN_CYCLES` steps (40_machine.md R162). -/
def startDrain (kind : DrainKind) (s : State) : State := { s with drain := { kind := kind, count := drainCycles } }

/-- `SYNC` (43_control.md R300): at issue, which is stage 0, it starts the drain; its handler does nothing. -/
def execSync (s : State) : Res :=
  match s.cur.stage with
  | 0 => .next (startDrain .sync s)
  | _ => .next s

/-- `STOP` (43_control.md R302): at issue, which is stage 0, it starts the drain; stage 1 schedules STOPCODE. -/
def execStop (code16 : BitVec 16) (s : State) : Res :=
  match s.cur.stage with
  | 0 => .next (startDrain .stop s)
  | 1 => sched .stopcode (code16.setWidth 64) 0xFFFFFFFF 0 true s
  | _ => .next s

end Sys2Proof.Machine
end

