-- ==== Sys2Proof/Machine/MemoryOps.lean ====
section
/-! DEFINITION. The meanings of the loads, stores and the address update (42_memory_ops.md). A meaning executes the
stage `s.cur.stage` of its sub-instruction on the entry's working values `s.cur.latch` (40_machine.md R166). -/

namespace Sys2Proof.Machine

/-- Change the working values of the entry whose stage executes. -/
def setLatch (l : Latch) (s : State) : State := { s with cur := { s.cur with latch := l } }

/-- A vector of one value for each section. -/
def perSection {α : Type} (f : Sec → α) : Vector α 4 := #v[f 0, f 1, f 2, f 3]

/-- `e.active[s]` for every section (42_memory_ops.md R261). -/
def activity (p : Bool) (cc : Fin 8) (s : State) : Vector Bool 4 := perSection fun sec => sectionActive p cc sec s

/-- `e.ea` (42_memory_ops.md R261). -/
def effectiveAddress (mode : AddrMode) (n : Fin 8) (s : State) : Addr :=
  match mode with
  | .offset off13 => readAn n s + off13.signExtend 16
  | .postModify => readAn n s

/-- `e.new_an` of the LP forms (42_memory_ops.md R261). -/
def postModified (n : Fin 8) (s : State) : Addr :=
  aguModify s.params.aguModify (readAn n s) (readNn n s) (readMn n s)

/-- Stage 1 of every memory kind: activity and addresses (42_memory_ops.md R261). -/
def memStage1 (mode : AddrMode) (p : Bool) (cc : Fin 8) (n : Fin 8) (s : State) : State :=
  let l := s.cur.latch
  let newAn := match mode with
    | .offset _ => l.newAn
    | .postModify => postModified n s
  setLatch { l with active := activity p cc s, ea := effectiveAddress mode n s, newAn := newAn } s

/-- The data words of the active sections; an inactive section keeps what its latch holds. -/
def latchData (read : Sec → Word) (active : Vector Bool 4) (old : Vector Word 4) : Vector Word 4 :=
  perSection fun sec => if active[sec] then read sec else old[sec]

/-- The store part of stage 1: the source registers of the active sections (42_memory_ops.md R261). -/
def storeRead (dbl : Bool) (f : Fin 64) (s : State) : State :=
  let l := s.cur.latch
  setLatch
    { l with
      data0 := latchData (fun sec => readFpr sec f s) l.active l.data0
      data1 := if dbl then latchData (fun sec => readFpr sec (pairOf f) s) l.active l.data1 else l.data1 } s

/-- The load part of stage 2: LMEM of the active sections at `ea` and `ea + 1` (42_memory_ops.md R261). -/
def loadRead (dbl : Bool) (s : State) : State :=
  let l := s.cur.latch
  setLatch
    { l with
      data0 := latchData (fun sec => memRead sec l.ea s) l.active l.data0
      data1 := if dbl then latchData (fun sec => memRead sec (l.ea + 1) s) l.active l.data1 else l.data1 } s

/-- `Sched(AN[n], e.new_an, 0xFFFF, 0, true)` (42_memory_ops.md R261, R270). -/
def schedNewAn (n : Fin 8) (s : State) : Res := sched (.an n) (s.cur.latch.newAn.setWidth 64) 0xFFFF 0 true s

/-- The address-register update of stage 2: LP forms only (42_memory_ops.md R261). -/
def updateAddress (mode : AddrMode) (n : Fin 8) (s : State) : Res :=
  match mode with
  | .offset _ => .next s
  | .postModify => schedNewAn n s

/-- The store part of stage 2 in one section (42_memory_ops.md R261). -/
def storeSection (dbl : Bool) (sec : Sec) (s : State) : State :=
  let l := s.cur.latch
  if l.active[sec] then
    let t := memWrite sec l.ea l.data0[sec] s
    if dbl then memWrite sec (l.ea + 1) l.data1[sec] t else t
  else s

/-- The store part of stage 2 (42_memory_ops.md R261). -/
def storeWrite (dbl : Bool) (s : State) : State :=
  storeSection dbl 3 (storeSection dbl 2 (storeSection dbl 1 (storeSection dbl 0 s)))

/-- Stage 3 of a load in one section (42_memory_ops.md R261). -/
def loadSection (dbl : Bool) (f : Fin 64) (sec : Sec) (s : State) : Res :=
  if s.cur.latch.active[sec] then
    andThen (sched (.fpr sec f) s.cur.latch.data0[sec] fullMask 0 true s) fun s =>
      if dbl then sched (.fpr sec (pairOf f)) s.cur.latch.data1[sec] fullMask 0 true s else .next s
  else .next s

/-- The stages of a load (40_machine.md R166; 42_memory_ops.md R261). -/
def loadOp (dbl : Bool) (mode : AddrMode) (p : Bool) (cc : Fin 8) (f : Fin 64) (n : Fin 8) (s : State) : Res :=
  match s.cur.stage with
  | 1 => .next (memStage1 mode p cc n s)
  | 2 => updateAddress mode n (loadRead dbl s)
  | 3 => forSections (loadSection dbl f) s
  | _ => .next s

/-- The stages of a store (40_machine.md R166; 42_memory_ops.md R261). -/
def storeOp (dbl : Bool) (mode : AddrMode) (p : Bool) (cc : Fin 8) (f : Fin 64) (n : Fin 8) (s : State) : Res :=
  match s.cur.stage with
  | 1 => .next (storeRead dbl f (memStage1 mode p cc n s))
  | 2 => andThen (updateAddress mode n s) fun s => .next (storeWrite dbl s)
  | _ => .next s

/-- `LD` (42_memory_ops.md R262). -/
def execLd (p : Bool) (cc : Fin 8) (f : Fin 64) (n : Fin 8) (off13 : BitVec 13) (s : State) : Res :=
  loadOp false (.offset off13) p cc f n s

/-- `LDD` (42_memory_ops.md R263). -/
def execLdd (p : Bool) (cc : Fin 8) (f : Fin 64) (n : Fin 8) (off13 : BitVec 13) (s : State) : Res :=
  loadOp true (.offset off13) p cc f n s

/-- `LDM` (42_memory_ops.md R264). -/
def execLdm (p : Bool) (cc : Fin 8) (f : Fin 64) (n : Fin 8) (s : State) : Res := loadOp false .postModify p cc f n s

/-- `LDDM` (42_memory_ops.md R265). -/
def execLddm (p : Bool) (cc : Fin 8) (f : Fin 64) (n : Fin 8) (s : State) : Res := loadOp true .postModify p cc f n s

/-- `ST` (42_memory_ops.md R266). -/
def execSt (p : Bool) (cc : Fin 8) (f : Fin 64) (n : Fin 8) (off13 : BitVec 13) (s : State) : Res :=
  storeOp false (.offset off13) p cc f n s

/-- `STD` (42_memory_ops.md R267). -/
def execStd (p : Bool) (cc : Fin 8) (f : Fin 64) (n : Fin 8) (off13 : BitVec 13) (s : State) : Res :=
  storeOp true (.offset off13) p cc f n s

/-- `STM` (42_memory_ops.md R268). -/
def execStm (p : Bool) (cc : Fin 8) (f : Fin 64) (n : Fin 8) (s : State) : Res := storeOp false .postModify p cc f n s

/-- `STDM` (42_memory_ops.md R269). -/
def execStdm (p : Bool) (cc : Fin 8) (f : Fin 64) (n : Fin 8) (s : State) : Res := storeOp true .postModify p cc f n s

/-- Stage 1 of `AUPD` (42_memory_ops.md R270). -/
def aupdStage1 (n : Fin 8) (off13 : BitVec 13) (s : State) : State :=
  setLatch
    { s.cur.latch with newAn := aguModify s.params.aguModify (readAn n s) (off13.signExtend 16) (readMn n s) } s

/-- `AUPD` (42_memory_ops.md R270). -/
def execAupd (n : Fin 8) (off13 : BitVec 13) (s : State) : Res :=
  match s.cur.stage with
  | 1 => .next (aupdStage1 n off13 s)
  | 2 => schedNewAn n s
  | _ => .next s

end Sys2Proof.Machine
end

