-- ==== Sys2Proof/Machine/Moves.lean ====
section
/-! DEFINITION. The meanings of `LNOP`, `SETI` and `MOVE` (44_moves.md). -/

namespace Sys2Proof.Machine

/-- `LNOP` (44_moves.md R341): every stage does nothing. -/
def execLnop (s : State) : Res := .next s

/-- The value `SETI` writes, before placement (44_moves.md R342). -/
def setiValue (rd : RegName) (u : Bool) (imm16 : BitVec 16) : Word :=
  if u then imm16.setWidth 64 <<< 16 else imm16.setWidth 64 &&& ones rd

/-- The mask of `SETI`, before placement (44_moves.md R342). -/
def setiMask (rd : RegName) (u : Bool) : Word := if u then 0xFFFF0000 else ones rd

/-- The stage-1 handler of `SETI`: a per-section destination is written in all four sections (44_moves.md R342). -/
def setiHandler (rd : RegName) (u : Bool) (imm16 : BitVec 16) (s : State) : Res :=
  schedTargets rd (setiValue rd u imm16) (setiMask rd u) true 0 s

/-- `SETI` (44_moves.md R342). -/
def execSeti (rd : RegName) (u : Bool) (imm16 : BitVec 16) (s : State) : Res := inStage1 (setiHandler rd u imm16) s

/-- The stage-1 handler of `MOVE` (44_moves.md R343). -/
def moveHandler (rd rs : RegName) (sec : Sec) (bc : Bool) (s : State) : Res :=
  schedTargets rd ((moveSource rs sec s).setWidth 64 &&& ones rd) (ones rd) bc sec s

/-- `MOVE` (44_moves.md R343). -/
def execMove (rd rs : RegName) (sec : Sec) (bc : Bool) (s : State) : Res := inStage1 (moveHandler rd rs sec bc) s

end Sys2Proof.Machine
end

