-- ==== Sys2Proof/Machine/Dispatch.lean ====
section
/-! DEFINITION. `exec i s` executes the stage `s.cur.stage` of the sub-instruction `i` (40_machine.md R163:
`ExecuteStage`), one meaning for each constructor. -/

namespace Sys2Proof.Machine

def exec (i : Instr) (s : State) : Host.Outcome State Fault Refusal :=
  match i with
  | .hnop => Sys2Proof.Machine.execHnop s
  | .fadd p cc fd fs ft => Sys2Proof.Machine.execFadd p cc fd fs ft s
  | .fmul p cc fd fs ft => Sys2Proof.Machine.execFmul p cc fd fs ft s
  | .fmadd p cc fd fs ft => Sys2Proof.Machine.execFmadd p cc fd fs ft s
  | .cmadd p cc fd fs ft => Sys2Proof.Machine.execCmadd p cc fd fs ft s
  | .fcmpeq cc fs ft => Sys2Proof.Machine.execFcmpeq cc fs ft s
  | .fcmplt cc fs ft => Sys2Proof.Machine.execFcmplt cc fs ft s
  | .fcmple cc fs ft => Sys2Proof.Machine.execFcmple cc fs ft s
  | .fperm p cc fd fs ft => Sys2Proof.Machine.execFperm p cc fd fs ft s
  | .fsin p cc fd fs => Sys2Proof.Machine.execFsin p cc fd fs s
  | .fcos p cc fd fs => Sys2Proof.Machine.execFcos p cc fd fs s
  | .frecip p cc fd fs => Sys2Proof.Machine.execFrecip p cc fd fs s
  | .flog2 p cc fd fs => Sys2Proof.Machine.execFlog2 p cc fd fs s
  | .fexp2 p cc fd fs => Sys2Proof.Machine.execFexp2 p cc fd fs s
  | .fsqrt p cc fd fs => Sys2Proof.Machine.execFsqrt p cc fd fs s
  | .lnop => Sys2Proof.Machine.execLnop s
  | .ld p cc f n off13 => Sys2Proof.Machine.execLd p cc f n off13 s
  | .ldd p cc f n off13 => Sys2Proof.Machine.execLdd p cc f n off13 s
  | .st p cc f n off13 => Sys2Proof.Machine.execSt p cc f n off13 s
  | .std p cc f n off13 => Sys2Proof.Machine.execStd p cc f n off13 s
  | .ldm p cc f n => Sys2Proof.Machine.execLdm p cc f n s
  | .lddm p cc f n => Sys2Proof.Machine.execLddm p cc f n s
  | .stm p cc f n => Sys2Proof.Machine.execStm p cc f n s
  | .stdm p cc f n => Sys2Proof.Machine.execStdm p cc f n s
  | .aupd n off13 => Sys2Proof.Machine.execAupd n off13 s
  | .seti rd u imm16 => Sys2Proof.Machine.execSeti rd u imm16 s
  | .move rd rs sec bc => Sys2Proof.Machine.execMove rd rs sec bc s
  | .jump imm16 => Sys2Proof.Machine.execJump imm16 s
  | .bcc all cc imm16 => Sys2Proof.Machine.execBcc all cc imm16 s
  | .call g => Sys2Proof.Machine.execCall g s
  | .calli imm16 => Sys2Proof.Machine.execCalli imm16 s
  | .ret => Sys2Proof.Machine.execRet s
  | .doLoop g end16 => Sys2Proof.Machine.execDo g end16 s
  | .doi count10 end16 => Sys2Proof.Machine.execDoi count10 end16 s
  | .enddo => Sys2Proof.Machine.execEnddo s
  | .sync => Sys2Proof.Machine.execSync s
  | .stop code16 => Sys2Proof.Machine.execStop code16 s

end Sys2Proof.Machine
end

