-- ==== Sys2Proof/Machine/Pipeline.lean ====
section
/-! DEFINITION. Issue and the two pipelines (40_machine.md section 3). -/

namespace Sys2Proof.Machine

/-- Execute a stage of a sub-instruction on an entry's working values (40_machine.md R163). -/
def runStage (i : Instr) (stage : Nat) (delaySlot : Bool) (l : Latch) (s : State) : Res :=
  exec i { s with cur := { stage := stage, delaySlot := delaySlot, latch := l } }

/-- Leave no stage context behind. -/
def clearCur (s : State) : State := { s with cur := StageCtx.idle }

/-- `LastStage` of a Cal entry (40_machine.md R164). -/
def calLastStage : Nat := 8

/-- `LastStage` of an Lmem entry (40_machine.md R166). -/
def lmemLastStage : Nat := 3

/-- `Shift(calpipe)` over the entries still to do; `done` holds the entries kept so far, newest first
(40_machine.md R163, R164, R168). -/
def shiftCalFrom (delaySlot : Bool) (entries done : List CalEntry) (s : State) : Res :=
  match entries with
  | [] => .next (clearCur { s with calpipe := done.reverse })
  | e :: rest =>
    let e' : CalEntry := { e with stage := e.stage + 1 }
    andThen (if e.annulled then .next s else runStage e.op e'.stage delaySlot (Latch.fresh 0) s) fun s =>
      shiftCalFrom delaySlot rest (if e'.stage = calLastStage then done else e' :: done) s

/-- `Shift(calpipe)` (40_machine.md R163). -/
def shiftCal (delaySlot : Bool) (s : State) : Res := shiftCalFrom delaySlot s.calpipe [] s

/-- `Shift(lmempipe)` over the entries still to do (40_machine.md R163, R166, R168). An entry keeps the working values
its stage computed. -/
def shiftLmemFrom (delaySlot : Bool) (entries done : List LmemEntry) (s : State) : Res :=
  match entries with
  | [] => .next (clearCur { s with lmempipe := done.reverse })
  | e :: rest =>
    let stage := e.stage + 1
    andThen
      (if e.annulled then .next { s with cur := { s.cur with latch := e.latch } }
        else runStage e.op stage delaySlot e.latch s) fun s =>
      let e' : LmemEntry := { e with stage := stage, latch := s.cur.latch }
      shiftLmemFrom delaySlot rest (if stage = lmemLastStage then done else e' :: done) s

/-- `Shift(lmempipe)` (40_machine.md R163). -/
def shiftLmem (delaySlot : Bool) (s : State) : Res := shiftLmemFrom delaySlot s.lmempipe [] s

/-- Push the Cal entry of an issued word (40_machine.md R161, R162). -/
def pushCal (i : Instr) (annulled : Bool) (s : State) : Res :=
  if calSlots ≤ s.calpipe.length then .fault .pipelineOverflow
  else .next { s with calpipe := s.calpipe ++ [{ op := i, ticket := s.cycle, stage := 0, annulled := annulled }] }

/-- Push the Lmem entry of an issued word (40_machine.md R161, R162). -/
def pushLmem (i : Instr) (annulled : Bool) (a : Addr) (s : State) : Res :=
  if lmemSlots ≤ s.lmempipe.length then .fault .pipelineOverflow
  else
    .next { s with
      lmempipe := s.lmempipe ++
        [{ op := i, ticket := s.cycle, stage := 0, annulled := annulled, latch := Latch.fresh a }] }

/-- Stage 0 of both entries of an issued word: issue itself (40_machine.md R162). Only `SYNC` and `STOP` have an
effect there. -/
def issueStage0 (hi lo : Instr) (a : Addr) (s : State) : Res :=
  andThen (runStage hi 0 false (Latch.fresh 0) s) fun s =>
    andThen (runStage lo 0 false (Latch.fresh a) s) fun s => .next (clearCur s)

/-- `Issue(w, a)` of a valid word's two sub-instructions (40_machine.md R162). -/
def issuePair (hi lo : Instr) (a : Addr) (s : State) : Res :=
  let ann := s.annulNext
  andThen (pushCal hi ann { s with annulNext := false }) fun s =>
    andThen (pushLmem lo ann a s) fun s =>
      if ann then .next s else issueStage0 hi lo a s

/-- `Issue(w, a)` (40_machine.md R162; 30_encoding.md R125). -/
def issue (w : Word) (a : Addr) (s : State) : Res :=
  match decodeWord w with
  | .error _ => .fault .unknownOpcode
  | .ok (hi, lo) => issuePair hi lo a s

end Sys2Proof.Machine
end

