-- ==== Sys2Proof/Machine/Clock.lean ====
section
/-! DEFINITION. The phases of one step (40_machine.md section 5). -/

namespace Sys2Proof.Machine

/-- `cycle := cycle + 1`, the end of every step but a pre-load step (40_machine.md R181, R186). -/
def tick (s : State) : State := { s with cycle := s.cycle + 1 }

/-- Phases 4 to 6 and the end of the step (40_machine.md R181): commit, PC update, latch, cycle. `update` is
`update_pc`; `pc0` and `delaySlot` are the values at the start of the step. -/
def finishStep (mode : Mode) (update delaySlot : Bool) (pc0 : Addr) (s : State) : Res :=
  let t := commitPhase s
  andThen
    (if update || (t.xferPending.isSome && mode != .draining) then pcUpdate pc0 mode t else .next t) fun s =>
    andThen (latchXfer delaySlot s) fun s => .next (tick s)

/-- Phases 2 to 6 (40_machine.md R181). -/
def runPhases (mode : Mode) (update delaySlot : Bool) (pc0 : Addr) (s : State) : Res :=
  andThen (shiftCal delaySlot s) fun s =>
    andThen (shiftLmem delaySlot s) fun s => finishStep mode update delaySlot pc0 s

/-- DRAINING dispatch (40_machine.md R184). -/
def drainDispatch (s : State) : State :=
  let count := s.drain.count - 1
  if count = 0 then
    let t := if s.drain.kind = .stop then clearRun s else s
    { t with drain := { kind := .none, count := 0 } }
  else { s with drain := { s.drain with count := count } }

/-- Whether the lo half of a word is `DO`, `DOI` or `ENDDO` (40_machine.md R183). -/
def isLoopControl (w : Word) : Bool :=
  match decodeLo w with
  | .ok (.doLoop _ _) => true
  | .ok (.doi _ _) => true
  | .ok .enddo => true
  | _ => false

/-- RUNNING dispatch and the phases after it (40_machine.md R182). -/
def runningStep (delaySlot : Bool) (s : State) : Res :=
  if s.params.iramWords ≤ s.pc.toNat then runPhases .running false delaySlot s.pc (clearRun s)
  else
    andThen (issue (Memory.read s.iram s.pc.toNat) s.pc s) fun t => runPhases .running true delaySlot s.pc t

/-- IDLE dispatch and the phases after it (40_machine.md R183, R186). -/
def idleStep (delaySlot : Bool) (s : State) : Res :=
  match s.fifo with
  | [] => runPhases .idle false delaySlot s.pc s
  | .preload a w :: rest => .next { s with fifo := rest, iram := Memory.write s.iram a.toNat w }
  | .exec w :: rest =>
    if isLoopControl w then .fault .fifoLoopControl
    else andThen (issue w s.pc { s with fifo := rest }) fun t => runPhases .idle false delaySlot s.pc t

/-- One step of a state that is not faulted (40_machine.md R180, R181). -/
def clockStep (s : State) : Res :=
  match modeOf s with
  | .draining => runPhases .draining false false s.pc (drainDispatch s)
  | .running => runningStep s.xferPending.isSome s
  | .idle => idleStep s.xferPending.isSome s

/-- A step: a faulted state takes none (60_exceptions.md R361), and parameters outside their bounds are refused
(40_machine.md R152). -/
def checkedStep (s : State) : Res :=
  match s.fault with
  | some r => .fault r
  | none => if s.params.ok then clockStep s else .refused .badConfiguration

/-- The state in which the next step fetches and issues the word `w` at the PC: RUN set, no drain, no fault, no
annulment, and the PC moved to 0 only where it lies beyond IRAM (40_machine.md R180, R182; assumption log 11). -/
def placeWord (w : Word) (s : State) : State :=
  let a : Addr := if s.params.iramWords ≤ s.pc.toNat then 0 else s.pc
  { s with
    pc := a, iram := Memory.write s.iram a.toNat w, status := s.status ||| 1,
    drain := { kind := .none, count := 0 }, fault := none, annulNext := false }

end Sys2Proof.Machine
end

