-- ==== Sys2Proof/Machine/Step.lean ====
section
/-! DEFINITION. The step of the machine and the placing of an instruction where it fetches (40_machine.md R180, R181). -/

namespace Sys2Proof.Machine

/-- One step, one hardware clock (40_machine.md R180). -/
def step (s : State) : Host.Outcome State Fault Refusal := checkedStep s

/-- `s` with the word whose low `nbits` bits are `w` stored where `step` fetches its next word. -/
def State.withFetchWord (s : State) (nbits w : Nat) : State := placeWord (tableWord nbits w) s

end Sys2Proof.Machine
end

