-- ==== Sys2Proof/Machine/HostInterface.lean ====
section
/-! DEFINITION. The host's operations, applied between steps (60_exceptions.md section 5; 20_memory.md R84, R89). -/

namespace Sys2Proof.Machine

/-- A host error: the operation is refused and changes no state (20_memory.md R89; 60_exceptions.md R382, R383). -/
inductive HostError where
  /-- A section outside 0..3 or a word range outside the memory. -/
  | outOfRange
  /-- A persisted document whose memories are not in canonical form (assumption log 17). -/
  | badDocument
  deriving DecidableEq, Repr

/-- The result of a host operation that can fail. -/
abbrev HostRes (α : Type) := Except HostError α

/-! ## Reset (R380; 10_state.md R60, R61) -/

/-- `RESET_IMAGE`: a partial assignment of values to IRAM words, LMEM words and registers (10_state.md R61). -/
structure ResetImage where
  iram : List (Addr × Word)
  lmem : List (Sec × Addr × Word)
  regs : List (Reg × Word)
  deriving DecidableEq, Repr

/-- The empty image of the reference configuration (10_state.md R61). -/
def ResetImage.empty : ResetImage := { iram := [], lmem := [], regs := [] }

/-- Whether an image lists only IRAM words that exist. DESIGN CHOICE: 10_state.md R61 speaks of IRAM words only and
does not say what an address at or above `IRAM_WORDS` does (assumption log 24). -/
def ResetImage.ok (p : Params) (im : ResetImage) : Bool := im.iram.all fun e => decide (e.1.toNat < p.iramWords)

/-- Assign IRAM words, in list order: of two entries for one address the later stands. DESIGN CHOICE: R61 does not say
(assumption log 24). `hostReset` refuses an image with an address beyond IRAM before it comes here. -/
def loadIram (ws : List (Addr × Word)) (s : State) : State :=
  match ws with
  | [] => s
  | (a, w) :: rest => loadIram rest { s with iram := Memory.write s.iram a.toNat w }

/-- Assign LMEM words, in list order, as `loadIram` does (assumption log 24). -/
def loadLmem (ws : List (Sec × Addr × Word)) (s : State) : State :=
  match ws with
  | [] => s
  | (sec, a, w) :: rest => loadLmem rest (memWrite sec a w s)

/-- Assign committed register values, without the queue, in list order; read-only-0 and computed bits stay as they are
(10_state.md R25, R31, R61). DESIGN CHOICE: the PC may be assigned, and `COMM_ORIGIN` stays `HOST`; R61 does not say
(assumption log 24). -/
def loadRegs (rs : List (Reg × Word)) (s : State) : State :=
  match rs with
  | [] => s
  | (.pc, v) :: rest => loadRegs rest (rfWrite .pc v s)
  | (r, v) :: rest => loadRegs rest (rfWrite r (merge (rfRead r s) v (writeBits r .host)) s)

/-- Apply a reset image (10_state.md R61; 70_reset_and_hazards.md R392). -/
def applyImage (im : ResetImage) (s : State) : State := loadRegs im.regs (loadLmem im.lmem (loadIram im.iram s))

/-- `create()` / `reset()` / `init()` (60_exceptions.md R380): every element at its reset value, then the image. DESIGN
CHOICE: an image that lists an IRAM address at or above `IRAM_WORDS` is a host error that changes no state, as
20_memory.md R89 has it for the host's other accesses; R61 and R380 do not say (assumption log 24). -/
def hostReset (im : ResetImage) (s : State) : HostRes State :=
  if im.ok s.params then .ok (applyImage im (State.zero s.params)) else .error .outOfRange

/-! ## Registers and the FIFO (R381, R382) -/

/-- The registers the host reaches (60_exceptions.md R381). -/
inductive HostReg where
  | comm | control | status | stopcode | fifo
  deriving DecidableEq, Repr

/-- `FifoPush(entry)` (60_exceptions.md R382). -/
def fifoPush (e : FifoEntry) (s : State) : HostRes State :=
  let push : State :=
    if s.fifo.length = s.params.fifoMaxSize then { s with status := s.status ||| fifoOvfBit.setWidth 32 }
    else { s with fifo := s.fifo ++ [e] }
  match e with
  | .preload a _ => if s.params.iramWords ≤ a.toNat then .error .outOfRange else .ok push
  | .exec _ => .ok push

/-- A host write of a control register: its bits under the mask and `HostMask`, at once (60_exceptions.md R381). -/
def hostRegWrite (r : Reg) (value mask : Word) (source : Origin) (s : State) : State :=
  let t := rfWrite r (merge (rfRead r s) value (mask &&& writeBits r .host)) s
  match r with
  | .comm => { t with commOrigin := source }
  | _ => t

/-- `reg_write(regno, value, mask, source)` (60_exceptions.md R381). -/
def regWrite (r : HostReg) (value mask : Word) (source : Origin) (s : State) : HostRes State :=
  match r with
  | .comm => .ok (hostRegWrite .comm value mask source s)
  | .control => .ok (hostRegWrite .control value mask source s)
  | .status => .ok (hostRegWrite .status value mask source s)
  | .stopcode => .ok (hostRegWrite .stopcode value mask source s)
  | .fifo => fifoPush (.exec value) s

/-- `reg_read(regno)` (60_exceptions.md R381); of the FIFO, the number of entries. -/
def regRead (r : HostReg) (s : State) : Word :=
  match r with
  | .comm => s.comm
  | .control => s.control.setWidth 64
  | .status => (statusValue s.status s).setWidth 64
  | .stopcode => s.stopcode.setWidth 64
  | .fifo => BitVec.ofNat 64 s.fifo.length

/-! ## Bulk access to the memories (R383; 20_memory.md R89) -/

/-- Whether the `n` words from address `a` lie in a memory of `size` words (20_memory.md R89). DESIGN CHOICE: of an empty
range R89 does not say; it is in range at an address up to and with `size`, and out of range above (assumption log 26).
-/
def inRange (size a n : Nat) : Bool := decide (a + n ≤ size)

/-- `n` consecutive words from address `a`. -/
def readWords (m : Memory) (a n : Nat) : List Word := (List.range n).map fun i => Memory.read m (a + i)

/-- Write consecutive words from address `a`. -/
def writeWords (m : Memory) (a : Nat) (ws : List Word) : Memory :=
  match ws with
  | [] => m
  | w :: rest => writeWords (Memory.write m a w) (a + 1) rest

/-- `LMEM_WORDS` (00_scope.md R7). -/
def lmemWords : Nat := 65536

/-- `lmem_read(section, address, n)` (60_exceptions.md R383; the range as in `inRange`, assumption log 26). -/
def lmemRead (sec a n : Nat) (s : State) : HostRes (List Word) :=
  if h : sec < 4 then (if inRange lmemWords a n then .ok (readWords s.lmem[sec] a n) else .error .outOfRange)
  else .error .outOfRange

/-- `lmem_write(section, address, words)` (60_exceptions.md R383; the range as in `inRange`, assumption log 26). -/
def lmemWrite (sec a : Nat) (ws : List Word) (s : State) : HostRes State :=
  if h : sec < 4 then
    if inRange lmemWords a ws.length then .ok { s with lmem := s.lmem.set sec (writeWords s.lmem[sec] a ws) }
    else .error .outOfRange
  else .error .outOfRange

/-- `iram_read(n, address)` (60_exceptions.md R383; the range as in `inRange`, assumption log 26). -/
def iramRead (n a : Nat) (s : State) : HostRes (List Word) :=
  if inRange s.params.iramWords a n then .ok (readWords s.iram a n) else .error .outOfRange

/-- `iram_write(words, address)` (60_exceptions.md R383; the range as in `inRange`, assumption log 26). -/
def iramWrite (ws : List Word) (a : Nat) (s : State) : HostRes State :=
  if inRange s.params.iramWords a ws.length then .ok { s with iram := writeWords s.iram a ws } else .error .outOfRange

/-! ## Clock, debug, persistence (R384 to R387) -/

/-- `clock(host_cycle)` (60_exceptions.md R384): one step, or the fault reason; the argument has no influence. A fault
leaves the state before the step with `fault` set (R360); a faulted state keeps it (R361). -/
def clock (_hostCycle : Nat) (s : State) : State × Option Fault × Option Refusal :=
  match step s with
  | .next t => (t, none, none)
  | .fault r => (recordFault r s, some r, none)
  | .refused r => (s, none, some r)

/-- `debug_read` of a register by its number and section (60_exceptions.md R385): the committed value, no bypass; of
STATUS the value of 10_state.md R31. -/
def debugReg (r : RegName) (sec : Sec) (s : State) : BitVec 32 :=
  match r with
  | .status => statusValue s.status s
  | r => if upperHalf r then (rfRead (regOf r sec) s >>> 32).setWidth 32 else (rfRead (regOf r sec) s).setWidth 32

/-- What `debug_read` can name: any element of state (60_exceptions.md R385). -/
inductive DebugElement where
  /-- A register by its number (30_encoding.md R121) and section. -/
  | register (r : RegName) (sec : Sec)
  /-- The origin tag of COMM (10_state.md R33). -/
  | commOrigin
  /-- The loop stack with its depth (10_state.md R45). -/
  | loopStack
  /-- The call stack with its depth (10_state.md R46). -/
  | callStack
  /-- The entries of the arithmetic pipeline (10_state.md R47). -/
  | calPipe
  /-- The entries of the memory/control pipeline (10_state.md R48). -/
  | lmemPipe
  /-- The queue slots (10_state.md R49). -/
  | queueSlots
  /-- The counter (10_state.md R50). -/
  | cycle
  /-- The scheduler state of 10_state.md R51. -/
  | scheduler
  /-- The same-cycle log (10_state.md R52). -/
  | samelog
  /-- The recorded fault (10_state.md R53). -/
  | fault
  /-- The FIFO (20_memory.md R74). -/
  | fifo
  /-- A word of instruction memory (20_memory.md R70). -/
  | iramWord (a : Addr)
  /-- A word of a section's local memory (20_memory.md R72). -/
  | lmemWord (sec : Sec) (a : Addr)
  deriving DecidableEq, Repr

/-- The scheduler state of 10_state.md R51. -/
structure SchedulerState where
  drain : Drain
  xferReq : Option Xfer
  xferPending : Option Xfer
  popPending : Bool
  annulNext : Bool
  deriving DecidableEq, Repr

/-- What `debug_read` returns (60_exceptions.md R385). -/
inductive DebugValue where
  | register (v : BitVec 32)
  | origin (o : Origin)
  | loopStack (frames : List LoopFrame) (depth : Nat)
  | callStack (frames : List Addr) (depth : Nat)
  | calPipe (entries : List CalEntry)
  | lmemPipe (entries : List LmemEntry)
  | queueSlots (slots : List (List PendingWrite))
  | count (n : Nat)
  | scheduler (v : SchedulerState)
  | samelog (log : List (Reg × Word))
  | fault (f : Option Fault)
  | fifo (entries : List FifoEntry)
  | word (w : Word)
  deriving DecidableEq, Repr

/-- `debug_read(x)` (60_exceptions.md R385): the committed value of any element of state; it changes nothing. DESIGN
CHOICE: an IRAM address at or above `IRAM_WORDS` gives 0; R385 names no such element (assumption log 25). -/
def debugRead (x : DebugElement) (s : State) : DebugValue :=
  match x with
  | .register r sec => .register (debugReg r sec s)
  | .commOrigin => .origin s.commOrigin
  | .loopStack => .loopStack s.loopstk s.loopDepth
  | .callStack => .callStack s.callstk s.callDepth
  | .calPipe => .calPipe s.calpipe
  | .lmemPipe => .lmemPipe s.lmempipe
  | .queueSlots => .queueSlots s.queue
  | .cycle => .count s.cycle
  | .scheduler =>
    .scheduler
      { drain := s.drain, xferReq := s.xferReq, xferPending := s.xferPending, popPending := s.popPending,
        annulNext := s.annulNext }
  | .samelog => .samelog s.samelog
  | .fault => .fault s.fault
  | .fifo => .fifo s.fifo
  | .iramWord a => .word (if a.toNat < s.params.iramWords then Memory.read s.iram a.toNat else 0)
  | .lmemWord sec a => .word (memRead sec a s)

/-- `pending_work()` (40_machine.md R187; 60_exceptions.md R387). -/
def pendingWork (s : State) : Bool := s.drain.kind != .none || !s.fifo.isEmpty

/-- The persisted state: every register of 10_state.md R22 to R36, IRAM and LMEM (R62; 60_exceptions.md R386). -/
structure Persisted where
  fpr : Vector (Vector Word 64) 4
  fccr : Vector (BitVec 8) 4
  fcsr : Vector (BitVec 32) 4
  gpr : Vector (BitVec 32) 16
  an : Vector Addr 8
  nn : Vector Addr 8
  mn : Vector Addr 8
  rind : BitVec 32
  rstep : BitVec 32
  rmask : BitVec 32
  pc : Addr
  status : BitVec 32
  control : BitVec 32
  comm : Word
  commOrigin : Origin
  stopcode : BitVec 32
  lc : BitVec 32
  la : Addr
  lsp : BitVec 32
  psp : BitVec 32
  iram : Memory
  lmem : Vector Memory 4
  deriving DecidableEq, Repr

/-- `save_state()` (60_exceptions.md R386). -/
def saveState (s : State) : Persisted :=
  { fpr := s.fpr, fccr := s.fccr, fcsr := s.fcsr, gpr := s.gpr, an := s.an, nn := s.nn, mn := s.mn
    rind := s.rind, rstep := s.rstep, rmask := s.rmask, pc := s.pc, status := s.status, control := s.control
    comm := s.comm, commOrigin := s.commOrigin, stopcode := s.stopcode, lc := s.lc, la := s.la, lsp := s.lsp
    psp := s.psp, iram := s.iram, lmem := s.lmem }

/-- Whether the memories of a document are canonical and hold only words that exist (20_memory.md R70, R72, R89). -/
def Persisted.check (params : Params) (p : Persisted) : HostRes Unit :=
  let memories := p.lmem.toList
  if ¬ (Memory.wf p.iram ∧ ∀ m ∈ memories, Memory.wf m) then .error .badDocument
  else if p.iram.all (fun c => decide (c.1 < params.iramWords)) &&
      memories.all (fun m => m.all fun c => decide (c.1 < lmemWords)) then .ok ()
  else .error .outOfRange

/-- `load_state()`: the persisted elements as committed values, between steps (60_exceptions.md R386). DEDUCED: the
hidden state is left as it is. DESIGN CHOICE, since R386 does not say: the read-only bits of the document's FCSR (31:6)
and STATUS (1, 2 and 31:14) are masked to 0, where 10_state.md R25 and R31 keep them, and a document whose memories list
a word that does not exist is a host error that changes no state (assumption log 17). -/
def loadState (p : Persisted) (s : State) : HostRes State :=
  match p.check s.params with
  | .error e => .error e
  | .ok _ =>
    .ok { s with
      fpr := p.fpr, fccr := p.fccr, gpr := p.gpr, an := p.an, nn := p.nn, mn := p.mn
      fcsr := p.fcsr.map fun v => v &&& (writeBits (.fcsr 0) .host).setWidth 32
      status := p.status &&& (writeBits .status .host).setWidth 32
      rind := p.rind, rstep := p.rstep, rmask := p.rmask, pc := p.pc, control := p.control
      comm := p.comm, commOrigin := p.commOrigin, stopcode := p.stopcode, lc := p.lc, la := p.la, lsp := p.lsp
      psp := p.psp, iram := p.iram, lmem := p.lmem }

end Sys2Proof.Machine
end

