-- ==== Sys2Proof/Safety.lean ====
section
/-! DEFINITION. What counts as a good state, in the terms the claims use: the invariant that every step keeps, room in
a queue slot, and the writes a handler schedules, listed from the rules. -/

namespace Sys2Proof.Machine

/-! ## Room in the queue -/

/-- The slot of delay `d` can take `k` more writes (40_machine.md R153); always so where `MAX_SLOT_WRITES` is
unbounded. -/
def RoomFor (late d k : Nat) (s : State) : Prop :=
  ∀ n, s.params.maxSlotWrites = some n → (slot (slotIndex late d s) s).length + k ≤ n

/-! ## The invariant -/

/-- The stored bits of STATUS that are always 0: 1, 2 and 31:14 (10_state.md R30, R31). -/
def statusReserved : BitVec 32 := 0xFFFFC006

/-- The bits of FCSR that are always 0: 31:6 (10_state.md R25). -/
def fcsrReserved : BitVec 32 := 0xFFFFFFC0

/-- A memory in canonical form that lists only addresses below a bound (20_memory.md R70, R72). -/
def MemoryIn (bound : Nat) (m : Memory) : Prop := Memory.wf m ∧ ∀ c ∈ m, c.1 < bound

/-- A pipeline's entries between steps: tickets strictly rising, every ticket and stage adding up to the cycle, stages
from 1 to below the last (40_machine.md R163, R167). -/
def Staged (lastStage cycle : Nat) (es : List (Nat × Nat)) : Prop :=
  es.Pairwise (fun a b => a.1 < b.1) ∧ ∀ e ∈ es, e.1 + e.2 = cycle ∧ 1 ≤ e.2 ∧ e.2 < lastStage

/-- What holds of the parts of the state that a stage handler or the PC update can change (10_state.md R45, R46, R49;
20_memory.md R72). -/
structure CoreInv (s : State) : Prop where
  /-- The parameters are within their bounds (40_machine.md R152). -/
  params : s.params.ok = true
  /-- Every local memory is canonical and holds 16-bit addresses (20_memory.md R72). -/
  lmem : ∀ sec : Sec, MemoryIn 65536 s.lmem[sec]
  /-- The loop stack has its capacity and a depth within it (10_state.md R45). -/
  loops : s.loopstk.length = s.params.loopMaxDepth ∧ s.loopDepth ≤ s.params.loopMaxDepth
  /-- The call stack has its capacity and a depth within it (10_state.md R46). -/
  calls : s.callstk.length = s.params.callMaxDepth ∧ s.callDepth ≤ s.params.callMaxDepth
  /-- The queue has its slots (10_state.md R49). -/
  queueLength : s.queue.length = s.params.queueDepth
  /-- No slot holds more than `MAX_SLOT_WRITES` writes (10_state.md R49). -/
  slotBound : ∀ sl ∈ s.queue, ∀ n, s.params.maxSlotWrites = some n → sl.length ≤ n
  /-- Every pending write is the core's (40_machine.md R153). -/
  coreWrites : ∀ sl ∈ s.queue, ∀ w ∈ sl, w.origin = .core
  /-- The drain counts while there is one, from 7 (10_state.md R51). -/
  drain : (s.drain.kind = .none ↔ s.drain.count = 0) ∧ s.drain.count ≤ drainCycles
  /-- A pending loop pop has a frame to pop (40_machine.md R190, R203). -/
  pop : s.popPending = true → 0 < s.loopDepth

/-- What holds of every state between steps that a run reaches. -/
structure Inv (s : State) : Prop extends CoreInv s where
  /-- No fault has been recorded (10_state.md R53). -/
  noFault : s.fault = none
  /-- No transfer request outlives its step (40_machine.md R197). -/
  noRequest : s.xferReq = none
  /-- No stage context is left behind. -/
  cur : s.cur = StageCtx.idle
  /-- Instruction memory is canonical and holds addresses below `IRAM_WORDS` (20_memory.md R70). -/
  iram : MemoryIn s.params.iramWords s.iram
  /-- The computed and the reserved bits of STATUS are stored as 0 (10_state.md R30, R31). -/
  status : s.status &&& statusReserved = 0
  /-- The reserved bits of FCSR are 0 (10_state.md R25). -/
  fcsr : ∀ sec : Sec, s.fcsr[sec] &&& fcsrReserved = 0
  /-- The FIFO is within its capacity and pre-loads existing words (20_memory.md R74, R75). -/
  fifo : s.fifo.length ≤ s.params.fifoMaxSize ∧
    ∀ a w, FifoEntry.preload a w ∈ s.fifo → a.toNat < s.params.iramWords
  /-- The arithmetic pipeline is staged (40_machine.md R163, R164). -/
  cal : Staged calLastStage s.cycle (s.calpipe.map fun e => (e.ticket, e.stage))
  /-- The arithmetic pipeline holds well-formed hi sub-instructions (10_state.md R47). -/
  calOps : ∀ e ∈ s.calpipe, e.op.isHi = true ∧ e.op.wellFormed = true
  /-- The memory/control pipeline is staged (40_machine.md R163, R166). -/
  lmemStaged : Staged lmemLastStage s.cycle (s.lmempipe.map fun e => (e.ticket, e.stage))
  /-- The memory/control pipeline holds well-formed lo sub-instructions (10_state.md R48). -/
  lmemOps : ∀ e ∈ s.lmempipe, e.op.isHi = false ∧ e.op.wellFormed = true

/-! ## When a word is issued -/

/-- A step in RUNNING that fetches a valid word with these two sub-instructions (40_machine.md R180, R182). -/
def Fetches (hi lo : Instr) (s : State) : Prop :=
  s.params.ok = true ∧ s.fault = none ∧ modeOf s = .running ∧ s.pc.toNat < s.params.iramWords ∧
    decodeWord (Memory.read s.iram s.pc.toNat) = .ok (hi, lo)

/-- The state on which `exec` executes a stage of a sub-instruction (40_machine.md R163). -/
def stageState (stage : Nat) (delaySlot : Bool) (l : Latch) (s : State) : State :=
  { s with cur := { stage := stage, delaySlot := delaySlot, latch := l } }

/-- The bits of a register's width (10_state.md). -/
def regBits (r : Reg) : Word :=
  match r with
  | .fpr _ _ => 0xFFFFFFFFFFFFFFFF
  | .comm => 0xFFFFFFFFFFFFFFFF
  | .fccr _ => 0xFF
  | .an _ => 0xFFFF
  | .nn _ => 0xFFFF
  | .mn _ => 0xFFFF
  | .pc => 0xFFFF
  | .la => 0xFFFF
  | .fcsr _ => 0xFFFFFFFF
  | .gpr _ => 0xFFFFFFFF
  | .rind => 0xFFFFFFFF
  | .rstep => 0xFFFFFFFF
  | .rmask => 0xFFFFFFFF
  | .status => 0xFFFFFFFF
  | .control => 0xFFFFFFFF
  | .stopcode => 0xFFFFFFFF
  | .lc => 0xFFFFFFFF
  | .lsp => 0xFFFFFFFF
  | .psp => 0xFFFFFFFF

/-! ## What one section can see -/

/-- The section whose register this is (10_state.md section 2). -/
def sectionOf (r : Reg) : Option Sec :=
  match r with
  | .fpr k _ => some k
  | .fccr k => some k
  | .fcsr k => some k
  | _ => none

/-- A pending write to a register of section `k`. -/
def inSection (k : Sec) (w : PendingWrite) : Bool := decide (sectionOf w.reg = some k)

/-- Two states that section `k` cannot tell apart: its committed registers and its pending writes agree. -/
structure SectionEq (k : Sec) (s t : State) : Prop where
  params : s.params = t.params
  cycle : s.cycle = t.cycle
  cur : s.cur = t.cur
  slots : s.queue.length = t.queue.length
  committed : ∀ r, sectionOf r = some k → rfRead r s = rfRead r t
  pending : ∀ j, (slot j s).filter (inSection k) = (slot j t).filter (inSection k)

/-! ## The stages in which a sub-instruction acts -/

/-- Whether the spec gives a sub-instruction work in a stage: stage 1 of the hi ones (40_machine.md R164), the cells of
the table of R166 that are not `-`, and issue, which is stage 0, for `SYNC` and `STOP` (R162). `HNOP`, `LNOP` and the
stage-1 handler of `SYNC` do nothing (44_moves.md R340, R341; 43_control.md R300). -/
def actsIn (i : Instr) (stage : Nat) : Bool :=
  match i with
  | .hnop | .lnop => false
  | .fadd .. | .fmul .. | .fmadd .. | .cmadd .. | .fcmpeq .. | .fcmplt .. | .fcmple .. | .fperm .. => stage == 1
  | .fsin .. | .fcos .. | .frecip .. | .flog2 .. | .fexp2 .. | .fsqrt .. => stage == 1
  | .ld .. | .ldd .. | .ldm .. | .lddm .. => stage == 1 || stage == 2 || stage == 3
  | .st .. | .std .. | .stm .. | .stdm .. | .aupd .. => stage == 1 || stage == 2
  | .seti .. | .move .. | .jump .. | .bcc .. | .call .. | .calli .. | .ret => stage == 1
  | .doLoop .. | .doi .. | .enddo => stage == 1
  | .sync => stage == 0
  | .stop .. => stage == 0 || stage == 1

/-! ## The writes of the handlers, listed from the rules -/

/-- The writes of `WriteFlags` (41_arith.md R224). -/
def flagWrites (sec : Sec) (f : FpFlags) (b : Bool) (s : State) : List PendingWrite :=
  if f = 0 then []
  else
    [coreWrite (.fcsr sec) (f.setWidth 64) (f.setWidth 64) b s,
     coreWrite .status (f.setWidth 64 <<< 8) (f.setWidth 64 <<< 8) b s]

/-- The writes of the four sections in ascending order (00_scope.md R12). -/
def sectionWrites (f : Sec → List PendingWrite) : List PendingWrite := f 0 ++ f 1 ++ f 2 ++ f 3

/-- The writes of one section of `ExecHi`, every operand read in the state before the handler; `y` is the second source
operand (41_arith.md R223). -/
def hiSectionWrites (op : ArithOp) (p : Bool) (cc : Fin 8) (fd fs : Fin 64) (y : Word) (sec : Sec) (s : State) :
    List PendingWrite :=
  if sectionActive p cc sec s then
    let r := arithLib s.params.arithLib op (readFpr sec fs s) y (readFpr sec fd s)
    let b := s.params.bypass.get (.arith op)
    coreWrite (.fpr sec fd) r.1 fullMask b s ::
      flagWrites sec (adjustFlags s.params.adjustFlags (.arith op) r.2) b s
  else []

/-- The writes of `ExecHi` in format H3 (41_arith.md R223). -/
def hiWrites (op : ArithOp) (p : Bool) (cc : Fin 8) (fd fs ft : Fin 64) (s : State) : List PendingWrite :=
  sectionWrites fun sec => hiSectionWrites op p cc fd fs (readFpr sec ft s) sec s

/-- The writes of `ExecHi` in format H2, where the second operand is 0 (41_arith.md R223). -/
def hiWrites2 (op : ArithOp) (p : Bool) (cc : Fin 8) (fd fs : Fin 64) (s : State) : List PendingWrite :=
  sectionWrites fun sec => hiSectionWrites op p cc fd fs 0 sec s

/-- The writes of one section of `ExecCmp` (41_arith.md R234). -/
def cmpSectionWrites (op : CmpOp) (cc : Fin 8) (fs ft : Fin 64) (sec : Sec) (s : State) : List PendingWrite :=
  let r := arithCmp s.params.arithLib op (readFpr sec fs s) (readFpr sec ft s)
  let b := s.params.bypass.get (.cmp op)
  coreWrite (.fccr sec) ((r.1.setWidth 8 <<< cc.val).setWidth 64) (((3 : BitVec 8) <<< cc.val).setWidth 64) b s ::
    flagWrites sec (adjustFlags s.params.adjustFlags (.cmp op) r.2) b s

/-- The writes of `ExecCmp` (41_arith.md R234). -/
def cmpWrites (op : CmpOp) (cc : Fin 8) (fs ft : Fin 64) (s : State) : List PendingWrite :=
  sectionWrites fun sec => cmpSectionWrites op cc fs ft sec s

/-- The writes of `FPERM` in one section, every operand read in the state before the handler (41_arith.md R238). -/
def permSectionWrites (p : Bool) (cc : Fin 8) (fd fs ft : Fin 64) (sec : Sec) (s : State) : List PendingWrite :=
  if sectionActive p cc sec s then
    [coreWrite (.fpr sec fd)
      (permLib s.params.perm sec
        #v[readFpr 0 fs s, readFpr 1 fs s, readFpr 2 fs s, readFpr 3 fs s]
        #v[readFpr 0 ft s, readFpr 1 ft s, readFpr 2 ft s, readFpr 3 ft s]
        (readIdx .rind s) (readIdx .rstep s) (readIdx .rmask s))
      fullMask (s.params.bypass.get .perm) s]
  else []

/-- The writes of `FPERM` (41_arith.md R238). -/
def permWrites (p : Bool) (cc : Fin 8) (fd fs ft : Fin 64) (s : State) : List PendingWrite :=
  sectionWrites fun sec => permSectionWrites p cc fd fs ft sec s

/-- The writes of a load's stage 3 in one section (42_memory_ops.md R261). -/
def loadSectionWrites (dbl : Bool) (f : Fin 64) (sec : Sec) (s : State) : List PendingWrite :=
  if s.cur.latch.active[sec] then
    coreWrite (.fpr sec f) s.cur.latch.data0[sec] fullMask true s ::
      (if dbl then [coreWrite (.fpr sec (pairOf f)) s.cur.latch.data1[sec] fullMask true s] else [])
  else []

/-- The writes of a load's stage 3 (42_memory_ops.md R261). -/
def loadWrites (dbl : Bool) (f : Fin 64) (s : State) : List PendingWrite :=
  sectionWrites fun sec => loadSectionWrites dbl f sec s

/-- The working values after stage 1 of a load (42_memory_ops.md R261): activity, effective address and, in the LP
forms, the new address-register value. -/
def addressLatch (mode : AddrMode) (p : Bool) (cc : Fin 8) (n : Fin 8) (s : State) : Latch :=
  { s.cur.latch with
    active := #v[sectionActive p cc 0 s, sectionActive p cc 1 s, sectionActive p cc 2 s, sectionActive p cc 3 s]
    ea := match mode with
      | .offset off13 => readAn n s + off13.signExtend 16
      | .postModify => readAn n s
    newAn := match mode with
      | .offset _ => s.cur.latch.newAn
      | .postModify => aguModify s.params.aguModify (readAn n s) (readNn n s) (readMn n s) }

/-- The words of the active sections, the others as they were. -/
def takeWords (word : Sec → Word) (active : Vector Bool 4) (old : Vector Word 4) : Vector Word 4 :=
  Vector.ofFn fun k => if active[k] then word k else old[k]

/-- The working values after stage 1 of a store: those of a load, and the source registers of the active sections
(42_memory_ops.md R261). -/
def storeLatch (dbl : Bool) (mode : AddrMode) (p : Bool) (cc : Fin 8) (f : Fin 64) (n : Fin 8) (s : State) : Latch :=
  let l := addressLatch mode p cc n s
  { l with
    data0 := takeWords (fun k => readFpr k f s) l.active l.data0
    data1 := if dbl then takeWords (fun k => readFpr k (f + 1) s) l.active l.data1 else l.data1 }

/-- The working values after stage 2 of a load: the words of the active sections at `ea` and, for a double load,
`ea + 1` modulo 2^16 (42_memory_ops.md R261). -/
def loadLatch (dbl : Bool) (s : State) : Latch :=
  let l := s.cur.latch
  { l with
    data0 := takeWords (fun k => memRead k l.ea s) l.active l.data0
    data1 := if dbl then takeWords (fun k => memRead k (l.ea + 1) s) l.active l.data1 else l.data1 }

/-- The word a read of section `k` at address `x` gives after a store with the working values `l`, where it gave `old`
before: in an active section the stored words at `ea` and, for a double store, `ea + 1` (42_memory_ops.md R261). -/
def storedWord (dbl : Bool) (l : Latch) (k : Sec) (x : Addr) (old : Word) : Word :=
  if l.active[k] then
    if dbl && x == l.ea + 1 then l.data1[k] else if x = l.ea then l.data0[k] else old
  else old

/-- The write of `SETI` or `MOVE` to one target (44_moves.md R342 to R344). -/
def targetWrite (rd : RegName) (v m : Word) (sec : Sec) (s : State) : PendingWrite :=
  coreWrite (regOf rd sec) (place rd v) (place rd m &&& wmask rd) true s

/-- The writes of `SETI` or `MOVE` (44_moves.md R342, R343). -/
def targetWrites (rd : RegName) (v m : Word) (all : Bool) (sec : Sec) (s : State) : List PendingWrite :=
  if rd.perSection && all then sectionWrites fun k => [targetWrite rd v m k s] else [targetWrite rd v m sec s]

/-- The mirror writes of a loop push (40_machine.md R200). -/
def pushMirrors (n : BitVec 32) (stop : Addr) (depth : Nat) (s : State) : List PendingWrite :=
  [coreWrite .lc (n.setWidth 64) 0xFFFFFFFF true s, coreWrite .la (stop.setWidth 64) 0xFFFF true s,
   coreWrite .lsp (BitVec.ofNat 64 depth) 0xFFFFFFFF true s]

/-- The mirror writes of a loop pop to the frame `f` and the depth (40_machine.md R202). -/
def popMirrors (f : LoopFrame) (depth : Nat) (s : State) : List PendingWrite :=
  [coreWrite .la (f.stop.setWidth 64) 0xFFFF true s, coreWrite .lc (f.count.setWidth 64) 0xFFFFFFFF true s,
   coreWrite .lsp (BitVec.ofNat 64 depth) 0xFFFFFFFF true s]

/-- The frame that a pop to depth `d` makes the top: `loopstk[d-1]`, or zero for an empty stack (40_machine.md R202). -/
def frameAt (d : Nat) (s : State) : LoopFrame := if d = 0 then LoopFrame.zero else s.loopstk.getD (d - 1) LoopFrame.zero

/-- The state with these writes appended to the slot of delay `d`. -/
def scheduled (late d : Nat) (ws : List PendingWrite) (s : State) : State := appendWrites (slotIndex late d s) ws s

end Sys2Proof.Machine
end

