-- ==== Sys2Proof/Certificates/Slice0/Obligations.lean ====
section
/-! DEFINITION. The statements for the provers. Each docstring names the rule of spec/ that the statement formalises.
Statements hold for every value of the OPEN parameters unless they name one. -/

open Sys2Proof Sys2Proof.Machine

/-! ## Encoding (30_encoding.md) -/

/-- Decoding the word of a well-formed pair gives the pair back, with every operand at every value its field admits
(R100 to R127). -/
def Obligations.DecodeOfEncodedWord : Prop :=
  ∀ hi lo : Instr, hi.isHi = true → lo.isHi = false → hi.wellFormed = true → lo.wellFormed = true →
    decodeWord (encodeWord hi lo) = .ok (hi, lo)

/-- A word that decodes is the word of what it decodes to: no bit of a valid word is ignored (R102, R121, R123). -/
def Obligations.DecodedWordIsItsEncoding : Prop :=
  ∀ (w : Word) (hi lo : Instr), decodeWord w = .ok (hi, lo) →
    hi.isHi = true ∧ lo.isHi = false ∧ hi.wellFormed = true ∧ lo.wellFormed = true ∧ encodeWord hi lo = w

/-- The worked encodings of R131, which the spec marks "[derived: from rules R104 to R127]". -/
def Obligations.WorkedEncodings : Prop :=
  decodeWord 0x0100108300000000 = .ok (.fadd false 0 1 2 3, .lnop) ∧
  decodeWord 0x02A0414604075FFF = .ok (.fmul true 2 4 5 6, .ld false 0 7 2 0x1FFF) ∧
  decodeWord 0x0000000058030012 = .ok (.hnop, .doi 3 0x0012) ∧
  decodeWord 0x000000002D020780 = .ok (.hnop, .move (.gpr 1) (.fprHalf 3 true) 2 false)

/-- R122: a word with an unassigned hi or lo opcode is invalid. -/
def Obligations.UnassignedOpcodesAreInvalid : Prop :=
  ∀ w : Word,
    (0x0F ≤ hiOpcode w ∨ (0x0C ≤ loOpcode w ∧ loOpcode w ≤ 0x0F) ∨ 0x1A ≤ loOpcode w) →
    ∀ pair, decodeWord w ≠ .ok pair

/-- R125: an invalid word raises `UnknownOpcode` at a Running fetch, and at an `Exec` pop (where its lo half is no loop
control, which R183 tests first: the order is DEDUCED, assumption log 22). -/
def Obligations.InvalidWordFaultsWhenIssued : Prop :=
  ∀ s : State, s.params.ok = true → s.fault = none →
    (modeOf s = .running → s.pc.toNat < s.params.iramWords →
      (∀ pair, decodeWord (Memory.read s.iram s.pc.toNat) ≠ .ok pair) → step s = .fault .unknownOpcode) ∧
    (modeOf s = .idle → ∀ w rest, s.fifo = .exec w :: rest → isLoopControl w = false →
      (∀ pair, decodeWord w ≠ .ok pair) → step s = .fault .unknownOpcode)

/-! ## The step (40_machine.md sections 3 and 5) -/

/-- A RUNNING step issues the word at the PC, shifts both pipelines, commits, updates the PC and latches (R181, R182).
-/
def Obligations.StepRunsDecodedWord : Prop :=
  ∀ (s : State) (hi lo : Instr), Fetches hi lo s →
    step s = andThen (issuePair hi lo s.pc s) fun t =>
      andThen (shiftCal s.xferPending.isSome t) fun t =>
      andThen (shiftLmem s.xferPending.isSome t) fun t =>
        finishStep .running true s.xferPending.isSome s.pc t

/-- With empty pipelines, a RUNNING step is stage 0 (issue) of the lo sub-instruction, stage 1 of the hi one, stage 1 of
the lo one, and the rest of the step, in this order (R162, R163, R181). -/
def Obligations.StepExecutesBothHalves : Prop :=
  ∀ (s : State) (hi lo : Instr), Fetches hi lo s → s.calpipe = [] → s.lmempipe = [] → s.annulNext = false →
    let ds := s.xferPending.isSome
    step s =
      andThen
        (exec lo (stageState 0 false (Latch.fresh s.pc)
          { s with
            annulNext := false
            calpipe := [{ op := hi, ticket := s.cycle, stage := 0, annulled := false }]
            lmempipe :=
              [{ op := lo, ticket := s.cycle, stage := 0, annulled := false, latch := Latch.fresh s.pc }] }))
        fun a =>
      andThen (exec hi (stageState 1 ds (Latch.fresh 0) a)) fun b =>
      andThen
        (exec lo (stageState 1 ds (Latch.fresh s.pc)
          { b with calpipe := [{ op := hi, ticket := s.cycle, stage := 1, annulled := false }] })) fun c =>
      finishStep .running true ds s.pc
        { c with
          cur := StageCtx.idle
          lmempipe := [{ op := lo, ticket := s.cycle, stage := 1, annulled := false, latch := c.cur.latch }] }

/-- R168: an annulled word executes no stage. In the step that issues it, from empty pipelines, both entries are pushed
and nothing is executed; in every later shift, whatever else is in flight, an annulled entry in any stage executes
nothing and only advances, keeping its working values, until it retires after its last stage. The zero working values
of the new Lmem entry are the model's choice (assumption log 10). -/
def Obligations.AnnulledWordExecutesNoStage : Prop :=
  (∀ (s : State) (hi lo : Instr), Fetches hi lo s → s.calpipe = [] → s.lmempipe = [] → s.annulNext = true →
    step s =
      finishStep .running true s.xferPending.isSome s.pc
        { s with
          annulNext := false
          cur := StageCtx.idle
          calpipe := [{ op := hi, ticket := s.cycle, stage := 1, annulled := true }]
          lmempipe := [{ op := lo, ticket := s.cycle, stage := 1, annulled := true, latch := Latch.fresh s.pc }] }) ∧
  (∀ (s : State) (ds : Bool) (e : CalEntry) (rest done : List CalEntry), e.annulled = true →
    shiftCalFrom ds (e :: rest) done s =
      shiftCalFrom ds rest (if e.stage + 1 = 8 then done else { e with stage := e.stage + 1 } :: done) s) ∧
  (∀ (s : State) (ds : Bool) (e : LmemEntry) (rest done : List LmemEntry), e.annulled = true →
    shiftLmemFrom ds (e :: rest) done s =
      shiftLmemFrom ds rest (if e.stage + 1 = 3 then done else { e with stage := e.stage + 1 } :: done) s)

/-- R360, R361: a faulting step leaves the state before it with the reason recorded, and a faulted state takes no
further step. That `clock` carries the faulted state is the model's choice (assumption log 12). -/
def Obligations.FaultedStateTakesNoStep : Prop :=
  (∀ (s : State) (r : Fault) (n : Nat), s.fault = none → step s = .fault r →
    clock n s = ({ s with fault := some r }, some r, none)) ∧
  (∀ (s : State) (r : Fault) (n : Nat), s.fault = some r → step s = .fault r ∧ clock n s = (s, some r, none))

/-- R152: parameters outside their bounds are refused before the machine runs. That a step is what refuses them is the
model's choice (assumption log 15). -/
def Obligations.IllFormedParametersRefused : Prop :=
  ∀ s : State, s.fault = none → s.params.ok = false → step s = .refused .badConfiguration

/-- R391: after reset the core is idle, the PC is 0, both stacks are empty and no write is pending; a clock shifts empty
pipelines, commits an empty slot and increments `cycle`. R391 is the spec's own inference ("[derived: from 10_state.md
rule R60 and 40_machine.md rule R181]"). For every parameter set within its bounds. -/
def Obligations.ResetIsIdleAndTicks : Prop :=
  ∀ p : Params, p.ok = true →
    let s := State.zero p
    modeOf s = .idle ∧ running s = false ∧ s.drain.kind = .none ∧ s.fifo = [] ∧
      (statusValue s.status s).getLsbD 1 = true ∧ s.pc = 0 ∧ s.loopDepth = 0 ∧ s.callDepth = 0 ∧
      (∀ k, slot k s = []) ∧ step s = .next { s with cycle := 1 }

/-- The state after reset meets the invariant. That the parameters have their reference values there is the model's
choice (assumption log 1), as is the cleared stage context (assumption log 7). -/
def Obligations.ResetMeetsInvariant : Prop := Inv State.reset

/-- Every step keeps the invariant: the memories stay canonical and in range, the stacks and the queue within their
bounds, the pipelines staged, the reserved bits of STATUS and FCSR 0 (10_state.md R25, R31, R45, R46, R49; 20_memory.md
R70, R72, R74; 40_machine.md R163, R164, R166). The cleared stage context is the model's choice (assumption log 7). -/
def Obligations.StepKeepsInvariant : Prop := ∀ s t : State, Inv s → step s = .next t → Inv t

/-- From a state of the invariant with unbounded queue slots, a step goes on or raises a fault that the spec names for
program or FIFO contents; a pipeline never overflows, and a draining step always goes on (R360, R362; R167, which the
spec marks "[derived: from rule R162, rule R163, rule R164 and rule R166]"). -/
def Obligations.OnlyProgramFaults : Prop :=
  ∀ s : State, Inv s →
    step s ≠ .fault .pipelineOverflow ∧
    (s.params.maxSlotWrites = none →
      ((∃ t, step s = .next t) ∨
        ∃ r ∈ [Fault.unknownOpcode, .transferInDelaySlot, .pcConflict, .loopBodyTooShort, .nestedLoopEnd,
          .loopControlInDelaySlot, .endDoConflict, .fifoLoopControl], step s = .fault r) ∧
      (s.drain.kind ≠ .none → ∃ t, step s = .next t))

/-- R184, R185: a draining step issues nothing, does not move the PC, keeps a latched transfer and a pending pop, and
counts down; at 0 a `STOP` drain clears RUN and the drain ends. R185 is the spec's own inference ("[derived: from rule
R181 and rule R190]"). -/
def Obligations.DrainStep : Prop :=
  ∀ s t : State, Inv s → s.drain.kind ≠ .none → step s = .next t →
    t.pc = s.pc ∧ t.xferPending = s.xferPending ∧ t.popPending = s.popPending ∧ t.fifo = s.fifo ∧
    (∀ e ∈ t.calpipe, e.ticket < s.cycle) ∧ (∀ e ∈ t.lmempipe, e.ticket < s.cycle) ∧
    t.drain =
      (if s.drain.count = 1 then { kind := .none, count := 0 }
        else { kind := s.drain.kind, count := s.drain.count - 1 }) ∧
    running t = (running s && !(decide (s.drain.kind = .stop) && decide (s.drain.count = 1)))

/-- R71, R182: a fetch at `PC >= IRAM_WORDS` clears RUN and issues nothing; the PC stays unless a transfer is pending. -/
def Obligations.RunOffEndClearsRun : Prop :=
  ∀ s t : State, Inv s → modeOf s = .running → s.params.iramWords ≤ s.pc.toNat → step s = .next t →
    running t = false ∧ (s.xferPending = none → t.pc = s.pc) ∧
    (∀ e ∈ t.calpipe, e.ticket < s.cycle) ∧ (∀ e ∈ t.lmempipe, e.ticket < s.cycle)

/-- R186: a pre-load step consists only of the FIFO pop and the IRAM write, which a later read of that address gives. -/
def Obligations.PreloadStepWritesIramOnly : Prop :=
  ∀ (s : State) (a : Addr) (w : Word) (rest : List FifoEntry), s.params.ok = true → s.fault = none →
    modeOf s = .idle → s.fifo = .preload a w :: rest → Memory.wf s.iram →
    ∃ m, step s = .next { s with fifo := rest, iram := m } ∧ Memory.wf m ∧
      ∀ x, Memory.read m x = if x = a.toNat then w else Memory.read s.iram x

/-- R183: `DO`, `DOI` or `ENDDO` from an `Exec` FIFO entry faults with `FifoLoopControl`. That it does so also where the
hi half of the word is invalid is DEDUCED from the order of R183 (assumption log 22). -/
def Obligations.FifoLoopControlFaults : Prop :=
  ∀ (s : State) (w : Word) (rest : List FifoEntry) (lo : Instr), s.params.ok = true → s.fault = none →
    modeOf s = .idle → s.fifo = .exec w :: rest → decodeLo w = .ok lo →
    ((∃ g a, lo = .doLoop g a) ∨ (∃ n a, lo = .doi n a) ∨ lo = .enddo) →
    step s = .fault .fifoLoopControl

/-- Every step but a pre-load step advances `cycle` by one and leaves IRAM as it is; no step changes the parameters
(R50, R70, R186). -/
def Obligations.StepCountsCyclesAndKeepsIram : Prop :=
  ∀ s t : State, step s = .next t →
    t.params = s.params ∧
    ((t.cycle = s.cycle + 1 ∧ t.iram = s.iram) ∨
      (modeOf s = .idle ∧ ∃ a w rest, s.fifo = .preload a w :: rest ∧
        t = { s with fifo := rest, iram := Memory.write s.iram a.toNat w }))

/-- No stage of any sub-instruction changes a committed register, the instruction memory, the FIFO, the call stack, a
pipeline, the counter or a latched transfer: registers change through the queue (R150). -/
def Obligations.ExecKeepsCommittedState : Prop :=
  ∀ (i : Instr) (s t : State), exec i s = .next t →
    (∀ r, rfRead r t = rfRead r s) ∧ t.commOrigin = s.commOrigin ∧ t.params = s.params ∧ t.iram = s.iram ∧
    t.fifo = s.fifo ∧ t.callstk = s.callstk ∧ t.callDepth = s.callDepth ∧ t.calpipe = s.calpipe ∧
    t.lmempipe = s.lmempipe ∧ t.cycle = s.cycle ∧ t.xferPending = s.xferPending ∧ t.popPending = s.popPending ∧
    t.samelog = s.samelog ∧ t.fault = s.fault ∧ t.queue.length = s.queue.length

/-! ## The hi sub-instructions (41_arith.md, 44_moves.md) -/

/-- `FADD`, `FMUL`, `FMADD` and `CMADD` in stage 1 read every operand through the bypass network, then schedule for each
active section, in ascending order, the result and its flags, and change nothing else (R223, R224, R226 to R232). -/
def Obligations.ThreeOperandArithmetic : Prop :=
  ∀ (s : State) (p : Bool) (cc : Fin 8) (fd fs ft : Fin 64), s.cur.stage = 1 →
    (RoomFor 0 s.params.lat.fadd (hiWrites .fadd p cc fd fs ft s).length s →
      exec (.fadd p cc fd fs ft) s = .next (scheduled 0 s.params.lat.fadd (hiWrites .fadd p cc fd fs ft s) s)) ∧
    (RoomFor 0 s.params.lat.fmul (hiWrites .fmul p cc fd fs ft s).length s →
      exec (.fmul p cc fd fs ft) s = .next (scheduled 0 s.params.lat.fmul (hiWrites .fmul p cc fd fs ft s) s)) ∧
    (RoomFor 0 s.params.lat.fmadd (hiWrites .fmadd p cc fd fs ft s).length s →
      exec (.fmadd p cc fd fs ft) s = .next (scheduled 0 s.params.lat.fmadd (hiWrites .fmadd p cc fd fs ft s) s)) ∧
    (RoomFor 0 s.params.lat.cmadd (hiWrites .cmadd p cc fd fs ft s).length s →
      exec (.cmadd p cc fd fs ft) s = .next (scheduled 0 s.params.lat.cmadd (hiWrites .cmadd p cc fd fs ft s) s))

/-- `FSIN`, `FCOS`, `FRECIP`, `FLOG2`, `FEXP2` and `FSQRT` in stage 1, the second operand being 0 (R223, R240 to R245).
-/
def Obligations.UnaryArithmetic : Prop :=
  ∀ (s : State) (p : Bool) (cc : Fin 8) (fd fs : Fin 64), s.cur.stage = 1 →
    (RoomFor 0 s.params.lat.fsin (hiWrites2 .fsin p cc fd fs s).length s →
      exec (.fsin p cc fd fs) s = .next (scheduled 0 s.params.lat.fsin (hiWrites2 .fsin p cc fd fs s) s)) ∧
    (RoomFor 0 s.params.lat.fcos (hiWrites2 .fcos p cc fd fs s).length s →
      exec (.fcos p cc fd fs) s = .next (scheduled 0 s.params.lat.fcos (hiWrites2 .fcos p cc fd fs s) s)) ∧
    (RoomFor 0 s.params.lat.frecip (hiWrites2 .frecip p cc fd fs s).length s →
      exec (.frecip p cc fd fs) s = .next (scheduled 0 s.params.lat.frecip (hiWrites2 .frecip p cc fd fs s) s)) ∧
    (RoomFor 0 s.params.lat.flog2 (hiWrites2 .flog2 p cc fd fs s).length s →
      exec (.flog2 p cc fd fs) s = .next (scheduled 0 s.params.lat.flog2 (hiWrites2 .flog2 p cc fd fs s) s)) ∧
    (RoomFor 0 s.params.lat.fexp2 (hiWrites2 .fexp2 p cc fd fs s).length s →
      exec (.fexp2 p cc fd fs) s = .next (scheduled 0 s.params.lat.fexp2 (hiWrites2 .fexp2 p cc fd fs s) s)) ∧
    (RoomFor 0 s.params.lat.fsqrt (hiWrites2 .fsqrt p cc fd fs s).length s →
      exec (.fsqrt p cc fd fs) s = .next (scheduled 0 s.params.lat.fsqrt (hiWrites2 .fsqrt p cc fd fs s) s))

/-- `FCMPEQ`, `FCMPLT` and `FCMPLE` in stage 1 schedule the two-bit result of `ArithLib` to bits `cc` and `cc + 1` of
every section's FCCR, and the flags (R234); the reference compare has half 0 in bit 0 and half 1 in bit 1 (R234 to R237;
that the reference library is the one of the spec's test vectors is assumption log 2). -/
def Obligations.Compares : Prop :=
  (∀ (op : CmpOp) (x y : Word),
    (arithCmp .reference op x y).1.getLsbD 0 = (laneCmp op (x.extractLsb' 0 32) (y.extractLsb' 0 32)).1 ∧
    (arithCmp .reference op x y).1.getLsbD 1 = (laneCmp op (x.extractLsb' 32 32) (y.extractLsb' 32 32)).1) ∧
  ∀ (s : State) (cc : Fin 8) (fs ft : Fin 64), s.cur.stage = 1 →
    (RoomFor 0 s.params.lat.fcmpeq (cmpWrites .eq cc fs ft s).length s →
      exec (.fcmpeq cc fs ft) s = .next (scheduled 0 s.params.lat.fcmpeq (cmpWrites .eq cc fs ft s) s)) ∧
    (RoomFor 0 s.params.lat.fcmplt (cmpWrites .lt cc fs ft s).length s →
      exec (.fcmplt cc fs ft) s = .next (scheduled 0 s.params.lat.fcmplt (cmpWrites .lt cc fs ft s) s)) ∧
    (RoomFor 0 s.params.lat.fcmple (cmpWrites .le cc fs ft s).length s →
      exec (.fcmple cc fs ft) s = .next (scheduled 0 s.params.lat.fcmple (cmpWrites .le cc fs ft s) s))

/-- `FPERM` in stage 1 reads both sources in all four sections and the index registers before it schedules the result of
each active section (R238). -/
def Obligations.Permute : Prop :=
  ∀ (s : State) (p : Bool) (cc : Fin 8) (fd fs ft : Fin 64), s.cur.stage = 1 →
    RoomFor 0 s.params.lat.fperm (permWrites p cc fd fs ft s).length s →
    exec (.fperm p cc fd fs ft) s = .next (scheduled 0 s.params.lat.fperm (permWrites p cc fd fs ft s) s)

/-- R340, R341: every stage of `HNOP` and `LNOP` does nothing. -/
def Obligations.NopsDoNothing : Prop := ∀ s : State, exec .hnop s = .next s ∧ exec .lnop s = .next s

/-- R162, R164, R166: a sub-instruction does nothing in a stage the spec gives it no work in: the hi ones outside stage
1, a `-` cell of the table of R166, any stage after the last, and issue for all but `SYNC` and `STOP`. -/
def Obligations.OtherStagesDoNothing : Prop :=
  ∀ (i : Instr) (s : State), actsIn i s.cur.stage = false → exec i s = .next s

/-! ## The memory sub-instructions (42_memory_ops.md) -/

/-- R261, R262 to R265: stage 1 of a load computes the activity of the sections and the addresses, and changes nothing
else. -/
def Obligations.LoadAddressStage : Prop :=
  ∀ (s : State) (p : Bool) (cc : Fin 8) (f : Fin 64) (n : Fin 8) (off13 : BitVec 13), s.cur.stage = 1 →
    exec (.ld p cc f n off13) s = .next (setLatch (addressLatch (.offset off13) p cc n s) s) ∧
    exec (.ldd p cc f n off13) s = .next (setLatch (addressLatch (.offset off13) p cc n s) s) ∧
    exec (.ldm p cc f n) s = .next (setLatch (addressLatch .postModify p cc n s) s) ∧
    exec (.lddm p cc f n) s = .next (setLatch (addressLatch .postModify p cc n s) s)

/-- R261, R266 to R269: stage 1 of a store computes activity and addresses and reads the source registers of the active
sections through the bypass network. -/
def Obligations.StoreAddressStage : Prop :=
  ∀ (s : State) (p : Bool) (cc : Fin 8) (f : Fin 64) (n : Fin 8) (off13 : BitVec 13), s.cur.stage = 1 →
    exec (.st p cc f n off13) s = .next (setLatch (storeLatch false (.offset off13) p cc f n s) s) ∧
    exec (.std p cc f n off13) s = .next (setLatch (storeLatch true (.offset off13) p cc f n s) s) ∧
    exec (.stm p cc f n) s = .next (setLatch (storeLatch false .postModify p cc f n s) s) ∧
    exec (.stdm p cc f n) s = .next (setLatch (storeLatch true .postModify p cc f n s) s)

/-- R261: stage 2 of a load reads LMEM of the active sections at `ea` (and `ea + 1`) and, in the LP forms, schedules the
new address-register value; all of memory stays as it is. -/
def Obligations.LoadMemoryStage : Prop :=
  ∀ (s : State) (p : Bool) (cc : Fin 8) (f : Fin 64) (n : Fin 8) (off13 : BitVec 13), s.cur.stage = 2 →
    exec (.ld p cc f n off13) s = .next (setLatch (loadLatch false s) s) ∧
    exec (.ldd p cc f n off13) s = .next (setLatch (loadLatch true s) s) ∧
    (RoomFor 0 0 1 s →
      exec (.ldm p cc f n) s =
        .next (scheduled 0 0 [coreWrite (.an n) (s.cur.latch.newAn.setWidth 64) 0xFFFF true s]
          (setLatch (loadLatch false s) s)) ∧
      exec (.lddm p cc f n) s =
        .next (scheduled 0 0 [coreWrite (.an n) (s.cur.latch.newAn.setWidth 64) 0xFFFF true s]
          (setLatch (loadLatch true s) s)))

/-- R261: stage 3 of a load schedules the words read into the floating registers of the active sections (a double load
also into the next register, modulo 64), with delay 0 and bypass allowed. -/
def Obligations.LoadRegisterStage : Prop :=
  ∀ (s : State) (p : Bool) (cc : Fin 8) (f : Fin 64) (n : Fin 8) (off13 : BitVec 13), s.cur.stage = 3 →
    (RoomFor 0 0 (loadWrites false f s).length s →
      exec (.ld p cc f n off13) s = .next (scheduled 0 0 (loadWrites false f s) s) ∧
      exec (.ldm p cc f n) s = .next (scheduled 0 0 (loadWrites false f s) s)) ∧
    (RoomFor 0 0 (loadWrites true f s).length s →
      exec (.ldd p cc f n off13) s = .next (scheduled 0 0 (loadWrites true f s) s) ∧
      exec (.lddm p cc f n) s = .next (scheduled 0 0 (loadWrites true f s) s))

/-- R261: stage 2 of a store writes the latched words at `ea` (and `ea + 1`) of the active sections; every other word of
every section reads as before, and nothing else changes but, in the LP forms, the scheduled address-register write. -/
def Obligations.StoreMemoryStage : Prop :=
  ∀ (s : State) (p : Bool) (cc : Fin 8) (f : Fin 64) (n : Fin 8) (off13 : BitVec 13), s.cur.stage = 2 →
    (∀ k : Sec, Memory.wf s.lmem[k]) →
    (∃ m, exec (.st p cc f n off13) s = .next { s with lmem := m } ∧
      ∀ k x, memRead k x { s with lmem := m } = storedWord false s.cur.latch k x (memRead k x s)) ∧
    (∃ m, exec (.std p cc f n off13) s = .next { s with lmem := m } ∧
      ∀ k x, memRead k x { s with lmem := m } = storedWord true s.cur.latch k x (memRead k x s)) ∧
    (RoomFor 0 0 1 s →
      (∃ m, exec (.stm p cc f n) s =
          .next { scheduled 0 0 [coreWrite (.an n) (s.cur.latch.newAn.setWidth 64) 0xFFFF true s] s with lmem := m } ∧
        ∀ k x, memRead k x { s with lmem := m } = storedWord false s.cur.latch k x (memRead k x s)) ∧
      (∃ m, exec (.stdm p cc f n) s =
          .next { scheduled 0 0 [coreWrite (.an n) (s.cur.latch.newAn.setWidth 64) 0xFFFF true s] s with lmem := m } ∧
        ∀ k x, memRead k x { s with lmem := m } = storedWord true s.cur.latch k x (memRead k x s)))

/-- R270: `AUPD` computes the new address in stage 1 and schedules it in stage 2, without memory access. -/
def Obligations.AddressUpdate : Prop :=
  ∀ (s : State) (n : Fin 8) (off13 : BitVec 13),
    (s.cur.stage = 1 →
      exec (.aupd n off13) s =
        .next (setLatch
          { s.cur.latch with
            newAn := aguModify s.params.aguModify (readAn n s) (off13.signExtend 16) (readMn n s) } s)) ∧
    (s.cur.stage = 2 → RoomFor 0 0 1 s →
      exec (.aupd n off13) s =
        .next (scheduled 0 0 [coreWrite (.an n) (s.cur.latch.newAn.setWidth 64) 0xFFFF true s] s))

/-- The reference `AguModify` (R260, which calls it the spec's own choice; assumption log 2): linear for `mn = 0`; else
the bits of `mn` come from the sum and the others stay. -/
def Obligations.ReferenceAddressModify : Prop :=
  ∀ an step mn : Addr,
    aguModify .reference an step 0 = an + step ∧
    (mn ≠ 0 → ∀ i < 16, (aguModify .reference an step mn).getLsbD i =
      if mn.getLsbD i then (an + step).getLsbD i else an.getLsbD i)

/-! ## Register moves (44_moves.md) -/

/-- R342, R344: `SETI` schedules the immediate under the mask of its destination, in every section for a per-section
destination, with delay `MOVE_DELAY` and bypass allowed. -/
def Obligations.SetImmediate : Prop :=
  ∀ (s : State) (rd : RegName) (u : Bool) (imm16 : BitVec 16), s.cur.stage = 1 →
    RoomFor 0 s.params.moveDelay (targetWrites rd (setiValue rd u imm16) (setiMask rd u) true 0 s).length s →
    exec (.seti rd u imm16) s =
      .next (scheduled 0 s.params.moveDelay (targetWrites rd (setiValue rd u imm16) (setiMask rd u) true 0 s) s)

/-- R343, R344: `MOVE` schedules the 32-bit source, truncated to the destination's width, to its targets. -/
def Obligations.MoveRegister : Prop :=
  ∀ (s : State) (rd rs : RegName) (sec : Sec) (bc : Bool), s.cur.stage = 1 →
    let ws := targetWrites rd ((moveSource rs sec s).setWidth 64 &&& ones rd) (ones rd) bc sec s
    RoomFor 0 s.params.moveDelay ws.length s →
    exec (.move rd rs sec bc) s = .next (scheduled 0 s.params.moveDelay ws s)

/-! ## Control transfer, loops, drains (43_control.md) -/

/-- R290, R294 to R296: `JUMP`, `CALL`, `CALLI` and `RET` in stage 1 request their transfer and change nothing else. -/
def Obligations.TransferRequests : Prop :=
  ∀ (s : State) (a : Addr) (g : Fin 16), s.cur.stage = 1 →
    exec (.jump a) s = .next { s with xferReq := some { kind := .jump, target := a } } ∧
    exec (.call g) s = .next { s with xferReq := some { kind := .call, target := (readGpr g s).setWidth 16 } } ∧
    exec (.calli a) s = .next { s with xferReq := some { kind := .call, target := a } } ∧
    exec .ret s = .next { s with xferReq := some { kind := .ret, target := 0 } }

/-- R292: `BCC.all` is taken when the FCCR bit is set in all four sections, `BCC.any` when it is set in any; a branch not
taken changes nothing. -/
def Obligations.ConditionalBranch : Prop :=
  ∀ (s : State) (cc : Fin 8) (a : Addr), s.cur.stage = 1 →
    let bit : Sec → Bool := fun k => (readReg (.fccr k) s).getLsbD cc.val
    let taken : State := { s with xferReq := some { kind := .jump, target := a } }
    ((∀ k, bit k = true) → exec (.bcc true cc a) s = .next taken) ∧
    ((∃ k, bit k = false) → exec (.bcc true cc a) s = .next s) ∧
    ((∃ k, bit k = true) → exec (.bcc false cc a) s = .next taken) ∧
    ((∀ k, bit k = false) → exec (.bcc false cc a) s = .next s)

/-- R200, R297, R298: a `DO` or `DOI` with a count above 0, a body of two words or more, within the enclosing loop and
below full depth pushes its frame and schedules the mirrors LC, LA and LSP. -/
def Obligations.LoopEntryPushesFrame : Prop :=
  ∀ (s : State) (g : Fin 16) (count10 : BitVec 10) (stop : Addr), s.cur.stage = 1 → s.cur.delaySlot = false →
    s.cur.latch.pcAtIssue.toNat + 2 ≤ stop.toNat →
    (s.loopDepth = 0 ∨ stop.toNat + 2 ≤ (topFrame s).stop.toNat) →
    s.loopDepth < s.params.loopMaxDepth → RoomFor 0 s.params.loopRegDelay 3 s →
    let entered : BitVec 32 → State := fun n =>
      scheduled 0 s.params.loopRegDelay (pushMirrors n stop (s.loopDepth + 1) s)
        { s with
          loopstk := s.loopstk.set s.loopDepth { start := s.cur.latch.pcAtIssue + 1, stop := stop, count := n }
          loopDepth := s.loopDepth + 1 }
    (readGpr g s ≠ 0 → exec (.doLoop g stop) s = .next (entered (readGpr g s))) ∧
    (count10 ≠ 0 → exec (.doi count10 stop) s = .next (entered (count10.setWidth 32)))

/-- R205: a zero-trip `DO` or `DOI` requests the jump past the body and annuls the next word; no frame, no mirror. -/
def Obligations.ZeroTripLoopJumps : Prop :=
  ∀ (s : State) (g : Fin 16) (stop : Addr), s.cur.stage = 1 → s.cur.delaySlot = false →
    s.cur.latch.pcAtIssue.toNat + 2 ≤ stop.toNat →
    (s.loopDepth = 0 ∨ stop.toNat + 2 ≤ (topFrame s).stop.toNat) →
    let skipped : State :=
      { s with xferReq := some { kind := .jump, target := stop + 1 }, annulNext := true }
    (readGpr g s = 0 → exec (.doLoop g stop) s = .next skipped) ∧ exec (.doi 0 stop) s = .next skipped

/-- R201: a `DO` or `DOI` with a count above 0 at full depth pushes nothing and sets `LOOP_OVF`. -/
def Obligations.LoopOverflowSetsSticky : Prop :=
  ∀ (s : State) (g : Fin 16) (count10 : BitVec 10) (stop : Addr), s.cur.stage = 1 → s.cur.delaySlot = false →
    s.cur.latch.pcAtIssue.toNat + 2 ≤ stop.toNat →
    (s.loopDepth = 0 ∨ stop.toNat + 2 ≤ (topFrame s).stop.toNat) →
    s.loopDepth = s.params.loopMaxDepth → RoomFor 0 0 1 s →
    let sticky : State := scheduled 0 0 [coreWrite .status 0x10 0x10 true s] s
    (readGpr g s ≠ 0 → exec (.doLoop g stop) s = .next sticky) ∧
    (count10 ≠ 0 → exec (.doi count10 stop) s = .next sticky)

/-- R206: the three constraints on a `DO` or `DOI`, in the order of R297, each with its fault. -/
def Obligations.LoopEntryFaults : Prop :=
  ∀ (s : State) (i : Instr) (stop : Addr), s.cur.stage = 1 →
    ((∃ g, i = .doLoop g stop) ∨ ∃ n, i = .doi n stop) →
    (s.cur.delaySlot = true → exec i s = .fault .loopControlInDelaySlot) ∧
    (s.cur.delaySlot = false → stop.toNat < s.cur.latch.pcAtIssue.toNat + 2 →
      exec i s = .fault .loopBodyTooShort) ∧
    (s.cur.delaySlot = false → s.cur.latch.pcAtIssue.toNat + 2 ≤ stop.toNat → 0 < s.loopDepth →
      (topFrame s).stop.toNat < stop.toNat + 2 → exec i s = .fault .nestedLoopEnd)

/-- R202, R203, R299: `ENDDO` pops the top frame and schedules the mirrors LA, LC and LSP of the parent; on an empty stack
it pops nothing and sets `LOOP_UNF` (R203 is the spec's own inference, "[derived: from rule R190]"). -/
def Obligations.LoopExitPopsFrame : Prop :=
  ∀ s : State, s.cur.stage = 1 → s.cur.delaySlot = false → s.popPending = false →
    (∀ x, s.xferPending = some x → x.kind ≠ .loop) →
    (0 < s.loopDepth → RoomFor 0 s.params.loopRegDelay 3 s →
      exec .enddo s =
        .next (scheduled 0 s.params.loopRegDelay (popMirrors (frameAt (s.loopDepth - 1) s) (s.loopDepth - 1) s)
          { s with loopDepth := s.loopDepth - 1 })) ∧
    (s.loopDepth = 0 → RoomFor 0 0 1 s →
      exec .enddo s = .next (scheduled 0 0 [coreWrite .status 0x20 0x20 true s] s))

/-- R299: `ENDDO` faults in a delay slot, and while a loop pop or a loop-back is pending. -/
def Obligations.LoopExitFaults : Prop :=
  ∀ s : State, s.cur.stage = 1 →
    (s.cur.delaySlot = true → exec .enddo s = .fault .loopControlInDelaySlot) ∧
    (s.cur.delaySlot = false → (s.popPending = true ∨ ∃ a, s.xferPending = some { kind := .loop, target := a }) →
      exec .enddo s = .fault .endDoConflict)

/-- R162, R300, R302: at issue `SYNC` and `STOP` start a drain of 7 steps; `STOP` schedules STOPCODE in stage 1, and
`SYNC` does nothing there. -/
def Obligations.SyncAndStop : Prop :=
  ∀ (s : State) (code : BitVec 16),
    (s.cur.stage = 0 → exec .sync s = .next { s with drain := { kind := .sync, count := 7 } }) ∧
    (s.cur.stage = 1 → exec .sync s = .next s) ∧
    (s.cur.stage = 0 → exec (.stop code) s = .next { s with drain := { kind := .stop, count := 7 } }) ∧
    (s.cur.stage = 1 → RoomFor 0 0 1 s →
      exec (.stop code) s =
        .next (scheduled 0 0 [coreWrite .stopcode (code.setWidth 64) 0xFFFFFFFF true s] s))

/-! ## The delayed-write queue (40_machine.md sections 1 and 2) -/

/-- R153: `Sched` appends the write to slot `(cycle + d + late) mod QUEUE_DEPTH`, or raises `QueueOverflow` where that
slot holds `MAX_SLOT_WRITES` writes. -/
def Obligations.ScheduleAppendsOrOverflows : Prop :=
  ∀ (s : State) (late d : Nat) (r : Reg) (value mask : Word) (b : Bool),
    let k := (s.cycle + d + late) % s.params.queueDepth
    let w : PendingWrite :=
      { reg := r, value := value, mask := mask, origin := .core, originCycle := s.cycle, bypass := b }
    (s.params.maxSlotWrites = some (slot k s).length → schedAt late r value mask d b s = .fault .queueOverflow) ∧
    (s.params.maxSlotWrites ≠ some (slot k s).length →
      schedAt late r value mask d b s = .next { s with queue := s.queue.set k (slot k s ++ [w]) })

/-- R154: the commit phase commits the writes of the head slot in list order, logs them and clears the slot; each write
changes the bits of its mask in its register, a read-only bit never, and `COMM_ORIGIN` with COMM. -/
def Obligations.CommitInOrder : Prop :=
  (∀ s : State,
    let k := s.cycle % s.params.queueDepth
    commitPhase s =
      { (slot k s).foldl (fun t w => commitWrite w t) { s with samelog := [] } with queue := s.queue.set k [] }) ∧
  (∀ (w : PendingWrite) (t : State),
    let u := commitWrite w t
    let m := w.mask &&& writeBits w.reg w.origin
    rfRead w.reg u = ((rfRead w.reg t &&& ~~~m) ||| (w.value &&& m)) &&& regBits w.reg ∧
    (∀ r, r ≠ w.reg → rfRead r u = rfRead r t) ∧
    u.commOrigin = (if w.reg = .comm then w.origin else t.commOrigin) ∧
    u.samelog = t.samelog ++ [(w.reg, rfRead w.reg u)] ∧
    u.lmem = t.lmem ∧ u.iram = t.iram ∧ u.queue = t.queue ∧ u.calpipe = t.calpipe ∧ u.lmempipe = t.lmempipe ∧
    u.loopstk = t.loopstk ∧ u.loopDepth = t.loopDepth ∧ u.callstk = t.callstk ∧ u.callDepth = t.callDepth ∧
    u.drain = t.drain ∧ u.fifo = t.fifo ∧ u.cycle = t.cycle ∧ u.params = t.params ∧ u.fault = t.fault ∧
    u.xferReq = t.xferReq ∧ u.xferPending = t.xferPending ∧ u.popPending = t.popPending ∧
    u.annulNext = t.annulNext)

/-- R158, R159: a scheduled write with bypass allowed is what the next read of its register gives, over the committed
value under its mask, unless a bypassable write that commits later is pending; without bypass no read changes, and no
other register's read changes. R159 is the spec's own inference ("[derived: from rule R151, rule R154 and rule R158]").
-/
def Obligations.BypassVisibility : Prop :=
  ∀ (s t : State) (r : Reg) (value mask : Word) (d : Nat) (b : Bool),
    s.queue.length = s.params.queueDepth → d < s.params.queueDepth → sched r value mask d b s = .next t →
    (∀ r', r' ≠ r ∨ b = false → readReg r' t = readReg r' s) ∧
    (b = true →
      (∀ e, d < e → e < s.params.queueDepth → ∀ w ∈ slot ((s.cycle + e) % s.params.queueDepth) s,
        w.reg ≠ r ∨ w.bypass = false) →
      readReg r t = ((rfRead r s &&& ~~~mask) ||| (value &&& mask)))

/-- R224: `WriteFlags` schedules nothing for no flag, else FCSR and STATUS.FPE; committing those writes ORs the flags into
both registers and clears none. -/
def Obligations.FlagsAccumulate : Prop :=
  ∀ (s : State) (k : Sec) (f : FpFlags) (d : Nat) (b : Bool),
    writeFlags k 0 d b s = .next s ∧
    (f ≠ 0 → RoomFor 0 d 2 s →
      writeFlags k f d b s =
        .next (scheduled 0 d
          [coreWrite (.fcsr k) (f.setWidth 64) (f.setWidth 64) b s,
            coreWrite .status (f.setWidth 64 <<< 8) (f.setWidth 64 <<< 8) b s] s)) ∧
    (commitValue (.fcsr k) (f.setWidth 64) (f.setWidth 64) .core s).fcsr[k] = s.fcsr[k] ||| f.setWidth 32 ∧
    (commitValue .status (f.setWidth 64 <<< 8) (f.setWidth 64 <<< 8) .core s).status =
      s.status ||| (f.setWidth 32 <<< 8)

/-! ## The PC update and the stacks (40_machine.md sections 6 to 8) -/

/-- R190, R191: the order of the PC sources: a pop with a transfer pending faults, a latched `JUMP` or loop-back comes
before loop-end detection, and else the PC is the next address. -/
def Obligations.PcUpdatePriority : Prop :=
  ∀ (s : State) (pc0 a : Addr) (mode : Mode),
    (s.popPending = true → s.xferPending ≠ none → pcUpdate pc0 mode s = .fault .pcConflict) ∧
    (s.popPending = false → ∀ kind, kind = .jump ∨ kind = .loop → s.xferPending = some { kind := kind, target := a } →
      pcUpdate pc0 mode s = .next { s with xferPending := none, pc := a }) ∧
    (s.popPending = false → s.xferPending = none →
      ¬ (mode = .running ∧ 0 < s.loopDepth ∧ pc0 + 1 = (topFrame s).stop) →
      pcUpdate pc0 mode s = .next { s with pc := pc0 + 1 })

/-- R193: an applied `CALL` pushes the address after the delay slot, or at full depth sets `CALL_OVF`, and jumps in both
cases. -/
def Obligations.AppliedCall : Prop :=
  ∀ (s : State) (pc0 a : Addr) (mode : Mode), s.popPending = false →
    s.xferPending = some { kind := .call, target := a } →
    (s.callDepth < s.params.callMaxDepth → RoomFor 1 s.params.callRegDelay 1 s →
      pcUpdate pc0 mode s =
        .next
          { scheduled 1 s.params.callRegDelay
              [coreWrite .psp (BitVec.ofNat 64 (s.callDepth + 1)) 0xFFFFFFFF true s] s with
            callstk := s.callstk.set s.callDepth (pc0 + 1)
            callDepth := s.callDepth + 1
            xferPending := none
            pc := a }) ∧
    (s.params.callMaxDepth ≤ s.callDepth → RoomFor 1 0 1 s →
      pcUpdate pc0 mode s =
        .next { scheduled 1 0 [coreWrite .status 0x40 0x40 true s] s with xferPending := none, pc := a })

/-- R194: an applied `RET` pops and jumps to the popped address, or on an empty stack sets `CALL_UNF` and does not jump.
-/
def Obligations.AppliedReturn : Prop :=
  ∀ (s : State) (pc0 a : Addr) (mode : Mode), s.popPending = false →
    s.xferPending = some { kind := .ret, target := a } →
    (0 < s.callDepth → RoomFor 1 s.params.callRegDelay 1 s →
      pcUpdate pc0 mode s =
        .next
          { scheduled 1 s.params.callRegDelay
              [coreWrite .psp (BitVec.ofNat 64 (s.callDepth - 1)) 0xFFFFFFFF true s] s with
            callDepth := s.callDepth - 1
            xferPending := none
            pc := s.callstk.getD (s.callDepth - 1) 0 }) ∧
    (s.callDepth = 0 → RoomFor 1 0 1 s →
      pcUpdate pc0 mode s =
        .next { scheduled 1 0 [coreWrite .status 0x80 0x80 true s] s with xferPending := none, pc := pc0 + 1 })

/-- R195: loop-end detection decrements the top frame's count and schedules LC; at 0 it leaves a pop pending, else it
requests the jump back, or faults where a transfer is requested. -/
def Obligations.LoopEndDetection : Prop :=
  ∀ (s : State) (pc0 : Addr), s.popPending = false → s.xferPending = none → 0 < s.loopDepth →
    pc0 + 1 = (topFrame s).stop → RoomFor 1 s.params.loopRegDelay 1 s →
    let count := (topFrame s).count - 1
    let counted : State :=
      { scheduled 1 s.params.loopRegDelay [coreWrite .lc (count.setWidth 64) 0xFFFFFFFF true s] s with
        loopstk := s.loopstk.set (s.loopDepth - 1) { topFrame s with count := count } }
    (count = 0 → pcUpdate pc0 .running s = .next { counted with popPending := true, pc := pc0 + 1 }) ∧
    (count ≠ 0 → s.xferReq = none →
      pcUpdate pc0 .running s =
        .next { counted with xferReq := some { kind := .loop, target := (topFrame s).start }, pc := pc0 + 1 }) ∧
    (count ≠ 0 → s.xferReq ≠ none → pcUpdate pc0 .running s = .fault .pcConflict)

/-- R190, R202: a pending pop removes the top frame, schedules the parent's LA and LC and the new LSP, and execution
falls through. -/
def Obligations.PendingPopRestoresParent : Prop :=
  ∀ (s : State) (pc0 : Addr) (mode : Mode), s.popPending = true → s.xferPending = none →
    RoomFor 1 s.params.loopRegDelay 3 s →
    pcUpdate pc0 mode s =
      .next
        { scheduled 1 s.params.loopRegDelay (popMirrors (frameAt (s.loopDepth - 1) s) (s.loopDepth - 1) s) s with
          loopDepth := s.loopDepth - 1
          popPending := false
          pc := pc0 + 1 }

/-- R197: the latch at the end of a step. -/
def Obligations.LatchTransfer : Prop :=
  ∀ (s : State) (ds : Bool) (x : Xfer),
    (s.xferReq = none → latchXfer ds s = .next s) ∧
    (s.xferReq = some x → ds = true → latchXfer ds s = .fault .transferInDelaySlot) ∧
    (s.xferReq = some x → ds = false → s.xferPending ≠ none → latchXfer ds s = .fault .pcConflict) ∧
    (s.xferReq = some x → ds = false → s.xferPending = none →
      latchXfer ds s = .next { s with xferPending := some x, xferReq := none })

/-- R211: a return that finds the call stack as its call left it goes to the word after the call's delay slot and leaves
the depth as it was before the call (the spec's own inference, "[derived: from rule R192, rule R193 and rule R194]").
-/
def Obligations.ReturnUndoesCall : Prop :=
  ∀ (s u v w : State) (pc0 pc1 a b : Addr) (m₁ m₂ : Mode), s.popPending = false → v.popPending = false →
    s.callDepth < s.params.callMaxDepth → s.callstk.length = s.params.callMaxDepth →
    s.xferPending = some { kind := .call, target := a } → pcUpdate pc0 m₁ s = .next u →
    v.callstk = u.callstk → v.callDepth = u.callDepth →
    v.xferPending = some { kind := .ret, target := b } → pcUpdate pc1 m₂ v = .next w →
    u.pc = a ∧ w.pc = pc0 + 1 ∧ w.callDepth = s.callDepth ∧
      ∀ j < s.callDepth, w.callstk.getD j 0 = s.callstk.getD j 0

/-! ## The host's registers (60_exceptions.md section 5; 10_state.md R31) -/

/-- R382: a push of a pre-load beyond IRAM is a host error; a push into a full FIFO drops the entry and sets `FIFO_OVF`;
any other push appends. -/
def Obligations.FifoPush : Prop :=
  ∀ (s : State) (e : FifoEntry),
    ((∃ a w, e = .preload a w ∧ s.params.iramWords ≤ a.toNat) → fifoPush e s = .error .outOfRange) ∧
    (¬ (∃ a w, e = .preload a w ∧ s.params.iramWords ≤ a.toNat) →
      (s.fifo.length = s.params.fifoMaxSize → fifoPush e s = .ok { s with status := s.status ||| 8 }) ∧
      (s.fifo.length ≠ s.params.fifoMaxSize → fifoPush e s = .ok { s with fifo := s.fifo ++ [e] }))

/-- R31, R343, R381: a read of STATUS by the host or the debug surface gives the stored bits, and by `MOVE` the value
that the bypass read of STATUS gives, each with FIFO_EMPTY and DRAIN in bits 1 and 2; no write changes bits 1, 2 or
31:14; a core write changes only bits 13:3, a host write bits 0 and 13:3. -/
def Obligations.StatusAccess : Prop :=
  ∀ (s : State) (value mask : Word) (o : Origin) (sec : Sec),
    regRead .status s = (statusValue s.status s).setWidth 64 ∧
    debugRead (.register .status sec) s = .register (statusValue s.status s) ∧
    moveSource .status sec s = statusValue ((readReg .status s).setWidth 32) s ∧
    ∀ i < 32,
      (∀ x : BitVec 32, (statusValue x s).getLsbD i =
        if i = 1 then s.fifo.isEmpty else if i = 2 then decide (s.drain.kind ≠ .none) else x.getLsbD i) ∧
      (commitValue .status value mask .core s).status.getLsbD i =
        (if (3 ≤ i ∧ i ≤ 13) ∧ mask.getLsbD i = true then value.getLsbD i else s.status.getLsbD i) ∧
      (hostRegWrite .status value mask o s).status.getLsbD i =
        (if (i = 0 ∨ (3 ≤ i ∧ i ≤ 13)) ∧ mask.getLsbD i = true then value.getLsbD i else s.status.getLsbD i)

/-! ## The whole machine -/

/-- R172: no hi sub-instruction but `FPERM` lets a section see another section: two states that section `k` cannot tell
apart lead to states that it cannot tell apart. -/
def Obligations.SectionsAreIsolated : Prop :=
  ∀ (k : Sec) (i : Instr) (s t s' t' : State), i.isHi = true → (∀ p cc fd fs ft, i ≠ .fperm p cc fd fs ft) →
    SectionEq k s t → exec i s = .next s' → exec i t = .next t' → SectionEq k s' t'

/-- R342, R345: with `MOVE_DELAY` 0, a step that issues `SETI gN, imm` ends with the immediate in GPR N, whatever else is
in flight. R345 is the spec's own inference ("[derived: from 40_machine.md rules R151, R158, R181 and rules R342, R343]").
-/
def Obligations.SetImmediateCommitsInItsStep : Prop :=
  ∀ (s t : State) (hi : Instr) (g : Fin 16) (imm16 : BitVec 16), Inv s →
    Fetches hi (.seti (.gpr g) false imm16) s → s.annulNext = false → s.params.moveDelay = 0 → step s = .next t →
    t.gpr[g] = imm16.setWidth 32

/-- R302: a step that issues `STOP code` ends with the code in STOPCODE, a drain of 7 steps under way and RUN still set;
outside transfers and loops the PC is the address after the word. -/
def Obligations.StopCommitsCodeAndDrains : Prop :=
  ∀ (s t : State) (hi : Instr) (code : BitVec 16), Inv s → Fetches hi (.stop code) s → s.annulNext = false →
    step s = .next t →
    t.stopcode = code.setWidth 32 ∧ t.drain = { kind := .stop, count := 7 } ∧ running t = true ∧
      (s.xferPending = none → s.loopDepth = 0 → t.pc = s.pc + 1)
end

