-- ==== Sys2Proof/Laws/State.lean ====
section
/-! SUPPORT. One lemma per field per update of State, true by rfl, so that no later proof unfolds a record update. -/

namespace Sys2Proof.Machine

variable (s : State)

/-! ## `appendWrites` -/

@[simp] theorem appendWrites_params (k : Nat) (ws : List PendingWrite) : (appendWrites k ws s).params = s.params := rfl
@[simp] theorem appendWrites_fpr (k : Nat) (ws : List PendingWrite) : (appendWrites k ws s).fpr = s.fpr := rfl
@[simp] theorem appendWrites_fccr (k : Nat) (ws : List PendingWrite) : (appendWrites k ws s).fccr = s.fccr := rfl
@[simp] theorem appendWrites_fcsr (k : Nat) (ws : List PendingWrite) : (appendWrites k ws s).fcsr = s.fcsr := rfl
@[simp] theorem appendWrites_gpr (k : Nat) (ws : List PendingWrite) : (appendWrites k ws s).gpr = s.gpr := rfl
@[simp] theorem appendWrites_an (k : Nat) (ws : List PendingWrite) : (appendWrites k ws s).an = s.an := rfl
@[simp] theorem appendWrites_nn (k : Nat) (ws : List PendingWrite) : (appendWrites k ws s).nn = s.nn := rfl
@[simp] theorem appendWrites_mn (k : Nat) (ws : List PendingWrite) : (appendWrites k ws s).mn = s.mn := rfl
@[simp] theorem appendWrites_rind (k : Nat) (ws : List PendingWrite) : (appendWrites k ws s).rind = s.rind := rfl
@[simp] theorem appendWrites_rstep (k : Nat) (ws : List PendingWrite) : (appendWrites k ws s).rstep = s.rstep := rfl
@[simp] theorem appendWrites_rmask (k : Nat) (ws : List PendingWrite) : (appendWrites k ws s).rmask = s.rmask := rfl
@[simp] theorem appendWrites_pc (k : Nat) (ws : List PendingWrite) : (appendWrites k ws s).pc = s.pc := rfl
@[simp] theorem appendWrites_status (k : Nat) (ws : List PendingWrite) : (appendWrites k ws s).status = s.status := rfl
@[simp] theorem appendWrites_control (k : Nat) (ws : List PendingWrite) : (appendWrites k ws s).control = s.control := rfl
@[simp] theorem appendWrites_comm (k : Nat) (ws : List PendingWrite) : (appendWrites k ws s).comm = s.comm := rfl
@[simp] theorem appendWrites_commOrigin (k : Nat) (ws : List PendingWrite) : (appendWrites k ws s).commOrigin = s.commOrigin := rfl
@[simp] theorem appendWrites_stopcode (k : Nat) (ws : List PendingWrite) : (appendWrites k ws s).stopcode = s.stopcode := rfl
@[simp] theorem appendWrites_lc (k : Nat) (ws : List PendingWrite) : (appendWrites k ws s).lc = s.lc := rfl
@[simp] theorem appendWrites_la (k : Nat) (ws : List PendingWrite) : (appendWrites k ws s).la = s.la := rfl
@[simp] theorem appendWrites_lsp (k : Nat) (ws : List PendingWrite) : (appendWrites k ws s).lsp = s.lsp := rfl
@[simp] theorem appendWrites_psp (k : Nat) (ws : List PendingWrite) : (appendWrites k ws s).psp = s.psp := rfl
@[simp] theorem appendWrites_loopstk (k : Nat) (ws : List PendingWrite) : (appendWrites k ws s).loopstk = s.loopstk := rfl
@[simp] theorem appendWrites_loopDepth (k : Nat) (ws : List PendingWrite) : (appendWrites k ws s).loopDepth = s.loopDepth := rfl
@[simp] theorem appendWrites_callstk (k : Nat) (ws : List PendingWrite) : (appendWrites k ws s).callstk = s.callstk := rfl
@[simp] theorem appendWrites_callDepth (k : Nat) (ws : List PendingWrite) : (appendWrites k ws s).callDepth = s.callDepth := rfl
@[simp] theorem appendWrites_calpipe (k : Nat) (ws : List PendingWrite) : (appendWrites k ws s).calpipe = s.calpipe := rfl
@[simp] theorem appendWrites_lmempipe (k : Nat) (ws : List PendingWrite) : (appendWrites k ws s).lmempipe = s.lmempipe := rfl
@[simp] theorem appendWrites_queue (k : Nat) (ws : List PendingWrite) : (appendWrites k ws s).queue = s.queue.set k (slot k s ++ ws) := rfl
@[simp] theorem appendWrites_cycle (k : Nat) (ws : List PendingWrite) : (appendWrites k ws s).cycle = s.cycle := rfl
@[simp] theorem appendWrites_drain (k : Nat) (ws : List PendingWrite) : (appendWrites k ws s).drain = s.drain := rfl
@[simp] theorem appendWrites_xferReq (k : Nat) (ws : List PendingWrite) : (appendWrites k ws s).xferReq = s.xferReq := rfl
@[simp] theorem appendWrites_xferPending (k : Nat) (ws : List PendingWrite) : (appendWrites k ws s).xferPending = s.xferPending := rfl
@[simp] theorem appendWrites_popPending (k : Nat) (ws : List PendingWrite) : (appendWrites k ws s).popPending = s.popPending := rfl
@[simp] theorem appendWrites_annulNext (k : Nat) (ws : List PendingWrite) : (appendWrites k ws s).annulNext = s.annulNext := rfl
@[simp] theorem appendWrites_samelog (k : Nat) (ws : List PendingWrite) : (appendWrites k ws s).samelog = s.samelog := rfl
@[simp] theorem appendWrites_fault (k : Nat) (ws : List PendingWrite) : (appendWrites k ws s).fault = s.fault := rfl
@[simp] theorem appendWrites_fifo (k : Nat) (ws : List PendingWrite) : (appendWrites k ws s).fifo = s.fifo := rfl
@[simp] theorem appendWrites_iram (k : Nat) (ws : List PendingWrite) : (appendWrites k ws s).iram = s.iram := rfl
@[simp] theorem appendWrites_lmem (k : Nat) (ws : List PendingWrite) : (appendWrites k ws s).lmem = s.lmem := rfl
@[simp] theorem appendWrites_cur (k : Nat) (ws : List PendingWrite) : (appendWrites k ws s).cur = s.cur := rfl

/-! ## `setLatch` -/

@[simp] theorem setLatch_params (l : Latch) : (setLatch l s).params = s.params := rfl
@[simp] theorem setLatch_fpr (l : Latch) : (setLatch l s).fpr = s.fpr := rfl
@[simp] theorem setLatch_fccr (l : Latch) : (setLatch l s).fccr = s.fccr := rfl
@[simp] theorem setLatch_fcsr (l : Latch) : (setLatch l s).fcsr = s.fcsr := rfl
@[simp] theorem setLatch_gpr (l : Latch) : (setLatch l s).gpr = s.gpr := rfl
@[simp] theorem setLatch_an (l : Latch) : (setLatch l s).an = s.an := rfl
@[simp] theorem setLatch_nn (l : Latch) : (setLatch l s).nn = s.nn := rfl
@[simp] theorem setLatch_mn (l : Latch) : (setLatch l s).mn = s.mn := rfl
@[simp] theorem setLatch_rind (l : Latch) : (setLatch l s).rind = s.rind := rfl
@[simp] theorem setLatch_rstep (l : Latch) : (setLatch l s).rstep = s.rstep := rfl
@[simp] theorem setLatch_rmask (l : Latch) : (setLatch l s).rmask = s.rmask := rfl
@[simp] theorem setLatch_pc (l : Latch) : (setLatch l s).pc = s.pc := rfl
@[simp] theorem setLatch_status (l : Latch) : (setLatch l s).status = s.status := rfl
@[simp] theorem setLatch_control (l : Latch) : (setLatch l s).control = s.control := rfl
@[simp] theorem setLatch_comm (l : Latch) : (setLatch l s).comm = s.comm := rfl
@[simp] theorem setLatch_commOrigin (l : Latch) : (setLatch l s).commOrigin = s.commOrigin := rfl
@[simp] theorem setLatch_stopcode (l : Latch) : (setLatch l s).stopcode = s.stopcode := rfl
@[simp] theorem setLatch_lc (l : Latch) : (setLatch l s).lc = s.lc := rfl
@[simp] theorem setLatch_la (l : Latch) : (setLatch l s).la = s.la := rfl
@[simp] theorem setLatch_lsp (l : Latch) : (setLatch l s).lsp = s.lsp := rfl
@[simp] theorem setLatch_psp (l : Latch) : (setLatch l s).psp = s.psp := rfl
@[simp] theorem setLatch_loopstk (l : Latch) : (setLatch l s).loopstk = s.loopstk := rfl
@[simp] theorem setLatch_loopDepth (l : Latch) : (setLatch l s).loopDepth = s.loopDepth := rfl
@[simp] theorem setLatch_callstk (l : Latch) : (setLatch l s).callstk = s.callstk := rfl
@[simp] theorem setLatch_callDepth (l : Latch) : (setLatch l s).callDepth = s.callDepth := rfl
@[simp] theorem setLatch_calpipe (l : Latch) : (setLatch l s).calpipe = s.calpipe := rfl
@[simp] theorem setLatch_lmempipe (l : Latch) : (setLatch l s).lmempipe = s.lmempipe := rfl
@[simp] theorem setLatch_queue (l : Latch) : (setLatch l s).queue = s.queue := rfl
@[simp] theorem setLatch_cycle (l : Latch) : (setLatch l s).cycle = s.cycle := rfl
@[simp] theorem setLatch_drain (l : Latch) : (setLatch l s).drain = s.drain := rfl
@[simp] theorem setLatch_xferReq (l : Latch) : (setLatch l s).xferReq = s.xferReq := rfl
@[simp] theorem setLatch_xferPending (l : Latch) : (setLatch l s).xferPending = s.xferPending := rfl
@[simp] theorem setLatch_popPending (l : Latch) : (setLatch l s).popPending = s.popPending := rfl
@[simp] theorem setLatch_annulNext (l : Latch) : (setLatch l s).annulNext = s.annulNext := rfl
@[simp] theorem setLatch_samelog (l : Latch) : (setLatch l s).samelog = s.samelog := rfl
@[simp] theorem setLatch_fault (l : Latch) : (setLatch l s).fault = s.fault := rfl
@[simp] theorem setLatch_fifo (l : Latch) : (setLatch l s).fifo = s.fifo := rfl
@[simp] theorem setLatch_iram (l : Latch) : (setLatch l s).iram = s.iram := rfl
@[simp] theorem setLatch_lmem (l : Latch) : (setLatch l s).lmem = s.lmem := rfl
@[simp] theorem setLatch_cur (l : Latch) : (setLatch l s).cur = { s.cur with latch := l } := rfl

/-! ## `setPc` -/

@[simp] theorem setPc_params (a : Addr) : (setPc a s).params = s.params := rfl
@[simp] theorem setPc_fpr (a : Addr) : (setPc a s).fpr = s.fpr := rfl
@[simp] theorem setPc_fccr (a : Addr) : (setPc a s).fccr = s.fccr := rfl
@[simp] theorem setPc_fcsr (a : Addr) : (setPc a s).fcsr = s.fcsr := rfl
@[simp] theorem setPc_gpr (a : Addr) : (setPc a s).gpr = s.gpr := rfl
@[simp] theorem setPc_an (a : Addr) : (setPc a s).an = s.an := rfl
@[simp] theorem setPc_nn (a : Addr) : (setPc a s).nn = s.nn := rfl
@[simp] theorem setPc_mn (a : Addr) : (setPc a s).mn = s.mn := rfl
@[simp] theorem setPc_rind (a : Addr) : (setPc a s).rind = s.rind := rfl
@[simp] theorem setPc_rstep (a : Addr) : (setPc a s).rstep = s.rstep := rfl
@[simp] theorem setPc_rmask (a : Addr) : (setPc a s).rmask = s.rmask := rfl
@[simp] theorem setPc_pc (a : Addr) : (setPc a s).pc = a := rfl
@[simp] theorem setPc_status (a : Addr) : (setPc a s).status = s.status := rfl
@[simp] theorem setPc_control (a : Addr) : (setPc a s).control = s.control := rfl
@[simp] theorem setPc_comm (a : Addr) : (setPc a s).comm = s.comm := rfl
@[simp] theorem setPc_commOrigin (a : Addr) : (setPc a s).commOrigin = s.commOrigin := rfl
@[simp] theorem setPc_stopcode (a : Addr) : (setPc a s).stopcode = s.stopcode := rfl
@[simp] theorem setPc_lc (a : Addr) : (setPc a s).lc = s.lc := rfl
@[simp] theorem setPc_la (a : Addr) : (setPc a s).la = s.la := rfl
@[simp] theorem setPc_lsp (a : Addr) : (setPc a s).lsp = s.lsp := rfl
@[simp] theorem setPc_psp (a : Addr) : (setPc a s).psp = s.psp := rfl
@[simp] theorem setPc_loopstk (a : Addr) : (setPc a s).loopstk = s.loopstk := rfl
@[simp] theorem setPc_loopDepth (a : Addr) : (setPc a s).loopDepth = s.loopDepth := rfl
@[simp] theorem setPc_callstk (a : Addr) : (setPc a s).callstk = s.callstk := rfl
@[simp] theorem setPc_callDepth (a : Addr) : (setPc a s).callDepth = s.callDepth := rfl
@[simp] theorem setPc_calpipe (a : Addr) : (setPc a s).calpipe = s.calpipe := rfl
@[simp] theorem setPc_lmempipe (a : Addr) : (setPc a s).lmempipe = s.lmempipe := rfl
@[simp] theorem setPc_queue (a : Addr) : (setPc a s).queue = s.queue := rfl
@[simp] theorem setPc_cycle (a : Addr) : (setPc a s).cycle = s.cycle := rfl
@[simp] theorem setPc_drain (a : Addr) : (setPc a s).drain = s.drain := rfl
@[simp] theorem setPc_xferReq (a : Addr) : (setPc a s).xferReq = s.xferReq := rfl
@[simp] theorem setPc_xferPending (a : Addr) : (setPc a s).xferPending = s.xferPending := rfl
@[simp] theorem setPc_popPending (a : Addr) : (setPc a s).popPending = s.popPending := rfl
@[simp] theorem setPc_annulNext (a : Addr) : (setPc a s).annulNext = s.annulNext := rfl
@[simp] theorem setPc_samelog (a : Addr) : (setPc a s).samelog = s.samelog := rfl
@[simp] theorem setPc_fault (a : Addr) : (setPc a s).fault = s.fault := rfl
@[simp] theorem setPc_fifo (a : Addr) : (setPc a s).fifo = s.fifo := rfl
@[simp] theorem setPc_iram (a : Addr) : (setPc a s).iram = s.iram := rfl
@[simp] theorem setPc_lmem (a : Addr) : (setPc a s).lmem = s.lmem := rfl
@[simp] theorem setPc_cur (a : Addr) : (setPc a s).cur = s.cur := rfl

/-! ## `clearCur` -/

@[simp] theorem clearCur_params : (clearCur s).params = s.params := rfl
@[simp] theorem clearCur_fpr : (clearCur s).fpr = s.fpr := rfl
@[simp] theorem clearCur_fccr : (clearCur s).fccr = s.fccr := rfl
@[simp] theorem clearCur_fcsr : (clearCur s).fcsr = s.fcsr := rfl
@[simp] theorem clearCur_gpr : (clearCur s).gpr = s.gpr := rfl
@[simp] theorem clearCur_an : (clearCur s).an = s.an := rfl
@[simp] theorem clearCur_nn : (clearCur s).nn = s.nn := rfl
@[simp] theorem clearCur_mn : (clearCur s).mn = s.mn := rfl
@[simp] theorem clearCur_rind : (clearCur s).rind = s.rind := rfl
@[simp] theorem clearCur_rstep : (clearCur s).rstep = s.rstep := rfl
@[simp] theorem clearCur_rmask : (clearCur s).rmask = s.rmask := rfl
@[simp] theorem clearCur_pc : (clearCur s).pc = s.pc := rfl
@[simp] theorem clearCur_status : (clearCur s).status = s.status := rfl
@[simp] theorem clearCur_control : (clearCur s).control = s.control := rfl
@[simp] theorem clearCur_comm : (clearCur s).comm = s.comm := rfl
@[simp] theorem clearCur_commOrigin : (clearCur s).commOrigin = s.commOrigin := rfl
@[simp] theorem clearCur_stopcode : (clearCur s).stopcode = s.stopcode := rfl
@[simp] theorem clearCur_lc : (clearCur s).lc = s.lc := rfl
@[simp] theorem clearCur_la : (clearCur s).la = s.la := rfl
@[simp] theorem clearCur_lsp : (clearCur s).lsp = s.lsp := rfl
@[simp] theorem clearCur_psp : (clearCur s).psp = s.psp := rfl
@[simp] theorem clearCur_loopstk : (clearCur s).loopstk = s.loopstk := rfl
@[simp] theorem clearCur_loopDepth : (clearCur s).loopDepth = s.loopDepth := rfl
@[simp] theorem clearCur_callstk : (clearCur s).callstk = s.callstk := rfl
@[simp] theorem clearCur_callDepth : (clearCur s).callDepth = s.callDepth := rfl
@[simp] theorem clearCur_calpipe : (clearCur s).calpipe = s.calpipe := rfl
@[simp] theorem clearCur_lmempipe : (clearCur s).lmempipe = s.lmempipe := rfl
@[simp] theorem clearCur_queue : (clearCur s).queue = s.queue := rfl
@[simp] theorem clearCur_cycle : (clearCur s).cycle = s.cycle := rfl
@[simp] theorem clearCur_drain : (clearCur s).drain = s.drain := rfl
@[simp] theorem clearCur_xferReq : (clearCur s).xferReq = s.xferReq := rfl
@[simp] theorem clearCur_xferPending : (clearCur s).xferPending = s.xferPending := rfl
@[simp] theorem clearCur_popPending : (clearCur s).popPending = s.popPending := rfl
@[simp] theorem clearCur_annulNext : (clearCur s).annulNext = s.annulNext := rfl
@[simp] theorem clearCur_samelog : (clearCur s).samelog = s.samelog := rfl
@[simp] theorem clearCur_fault : (clearCur s).fault = s.fault := rfl
@[simp] theorem clearCur_fifo : (clearCur s).fifo = s.fifo := rfl
@[simp] theorem clearCur_iram : (clearCur s).iram = s.iram := rfl
@[simp] theorem clearCur_lmem : (clearCur s).lmem = s.lmem := rfl
@[simp] theorem clearCur_cur : (clearCur s).cur = StageCtx.idle := rfl

/-! ## `clearRun` -/

@[simp] theorem clearRun_params : (clearRun s).params = s.params := rfl
@[simp] theorem clearRun_fpr : (clearRun s).fpr = s.fpr := rfl
@[simp] theorem clearRun_fccr : (clearRun s).fccr = s.fccr := rfl
@[simp] theorem clearRun_fcsr : (clearRun s).fcsr = s.fcsr := rfl
@[simp] theorem clearRun_gpr : (clearRun s).gpr = s.gpr := rfl
@[simp] theorem clearRun_an : (clearRun s).an = s.an := rfl
@[simp] theorem clearRun_nn : (clearRun s).nn = s.nn := rfl
@[simp] theorem clearRun_mn : (clearRun s).mn = s.mn := rfl
@[simp] theorem clearRun_rind : (clearRun s).rind = s.rind := rfl
@[simp] theorem clearRun_rstep : (clearRun s).rstep = s.rstep := rfl
@[simp] theorem clearRun_rmask : (clearRun s).rmask = s.rmask := rfl
@[simp] theorem clearRun_pc : (clearRun s).pc = s.pc := rfl
@[simp] theorem clearRun_status : (clearRun s).status = s.status &&& 0xFFFFFFFE := rfl
@[simp] theorem clearRun_control : (clearRun s).control = s.control := rfl
@[simp] theorem clearRun_comm : (clearRun s).comm = s.comm := rfl
@[simp] theorem clearRun_commOrigin : (clearRun s).commOrigin = s.commOrigin := rfl
@[simp] theorem clearRun_stopcode : (clearRun s).stopcode = s.stopcode := rfl
@[simp] theorem clearRun_lc : (clearRun s).lc = s.lc := rfl
@[simp] theorem clearRun_la : (clearRun s).la = s.la := rfl
@[simp] theorem clearRun_lsp : (clearRun s).lsp = s.lsp := rfl
@[simp] theorem clearRun_psp : (clearRun s).psp = s.psp := rfl
@[simp] theorem clearRun_loopstk : (clearRun s).loopstk = s.loopstk := rfl
@[simp] theorem clearRun_loopDepth : (clearRun s).loopDepth = s.loopDepth := rfl
@[simp] theorem clearRun_callstk : (clearRun s).callstk = s.callstk := rfl
@[simp] theorem clearRun_callDepth : (clearRun s).callDepth = s.callDepth := rfl
@[simp] theorem clearRun_calpipe : (clearRun s).calpipe = s.calpipe := rfl
@[simp] theorem clearRun_lmempipe : (clearRun s).lmempipe = s.lmempipe := rfl
@[simp] theorem clearRun_queue : (clearRun s).queue = s.queue := rfl
@[simp] theorem clearRun_cycle : (clearRun s).cycle = s.cycle := rfl
@[simp] theorem clearRun_drain : (clearRun s).drain = s.drain := rfl
@[simp] theorem clearRun_xferReq : (clearRun s).xferReq = s.xferReq := rfl
@[simp] theorem clearRun_xferPending : (clearRun s).xferPending = s.xferPending := rfl
@[simp] theorem clearRun_popPending : (clearRun s).popPending = s.popPending := rfl
@[simp] theorem clearRun_annulNext : (clearRun s).annulNext = s.annulNext := rfl
@[simp] theorem clearRun_samelog : (clearRun s).samelog = s.samelog := rfl
@[simp] theorem clearRun_fault : (clearRun s).fault = s.fault := rfl
@[simp] theorem clearRun_fifo : (clearRun s).fifo = s.fifo := rfl
@[simp] theorem clearRun_iram : (clearRun s).iram = s.iram := rfl
@[simp] theorem clearRun_lmem : (clearRun s).lmem = s.lmem := rfl
@[simp] theorem clearRun_cur : (clearRun s).cur = s.cur := rfl

/-! ## `memWrite` -/

@[simp] theorem memWrite_params (sec : Sec) (a : Addr) (v : Word) : (memWrite sec a v s).params = s.params := rfl
@[simp] theorem memWrite_fpr (sec : Sec) (a : Addr) (v : Word) : (memWrite sec a v s).fpr = s.fpr := rfl
@[simp] theorem memWrite_fccr (sec : Sec) (a : Addr) (v : Word) : (memWrite sec a v s).fccr = s.fccr := rfl
@[simp] theorem memWrite_fcsr (sec : Sec) (a : Addr) (v : Word) : (memWrite sec a v s).fcsr = s.fcsr := rfl
@[simp] theorem memWrite_gpr (sec : Sec) (a : Addr) (v : Word) : (memWrite sec a v s).gpr = s.gpr := rfl
@[simp] theorem memWrite_an (sec : Sec) (a : Addr) (v : Word) : (memWrite sec a v s).an = s.an := rfl
@[simp] theorem memWrite_nn (sec : Sec) (a : Addr) (v : Word) : (memWrite sec a v s).nn = s.nn := rfl
@[simp] theorem memWrite_mn (sec : Sec) (a : Addr) (v : Word) : (memWrite sec a v s).mn = s.mn := rfl
@[simp] theorem memWrite_rind (sec : Sec) (a : Addr) (v : Word) : (memWrite sec a v s).rind = s.rind := rfl
@[simp] theorem memWrite_rstep (sec : Sec) (a : Addr) (v : Word) : (memWrite sec a v s).rstep = s.rstep := rfl
@[simp] theorem memWrite_rmask (sec : Sec) (a : Addr) (v : Word) : (memWrite sec a v s).rmask = s.rmask := rfl
@[simp] theorem memWrite_pc (sec : Sec) (a : Addr) (v : Word) : (memWrite sec a v s).pc = s.pc := rfl
@[simp] theorem memWrite_status (sec : Sec) (a : Addr) (v : Word) : (memWrite sec a v s).status = s.status := rfl
@[simp] theorem memWrite_control (sec : Sec) (a : Addr) (v : Word) : (memWrite sec a v s).control = s.control := rfl
@[simp] theorem memWrite_comm (sec : Sec) (a : Addr) (v : Word) : (memWrite sec a v s).comm = s.comm := rfl
@[simp] theorem memWrite_commOrigin (sec : Sec) (a : Addr) (v : Word) : (memWrite sec a v s).commOrigin = s.commOrigin := rfl
@[simp] theorem memWrite_stopcode (sec : Sec) (a : Addr) (v : Word) : (memWrite sec a v s).stopcode = s.stopcode := rfl
@[simp] theorem memWrite_lc (sec : Sec) (a : Addr) (v : Word) : (memWrite sec a v s).lc = s.lc := rfl
@[simp] theorem memWrite_la (sec : Sec) (a : Addr) (v : Word) : (memWrite sec a v s).la = s.la := rfl
@[simp] theorem memWrite_lsp (sec : Sec) (a : Addr) (v : Word) : (memWrite sec a v s).lsp = s.lsp := rfl
@[simp] theorem memWrite_psp (sec : Sec) (a : Addr) (v : Word) : (memWrite sec a v s).psp = s.psp := rfl
@[simp] theorem memWrite_loopstk (sec : Sec) (a : Addr) (v : Word) : (memWrite sec a v s).loopstk = s.loopstk := rfl
@[simp] theorem memWrite_loopDepth (sec : Sec) (a : Addr) (v : Word) : (memWrite sec a v s).loopDepth = s.loopDepth := rfl
@[simp] theorem memWrite_callstk (sec : Sec) (a : Addr) (v : Word) : (memWrite sec a v s).callstk = s.callstk := rfl
@[simp] theorem memWrite_callDepth (sec : Sec) (a : Addr) (v : Word) : (memWrite sec a v s).callDepth = s.callDepth := rfl
@[simp] theorem memWrite_calpipe (sec : Sec) (a : Addr) (v : Word) : (memWrite sec a v s).calpipe = s.calpipe := rfl
@[simp] theorem memWrite_lmempipe (sec : Sec) (a : Addr) (v : Word) : (memWrite sec a v s).lmempipe = s.lmempipe := rfl
@[simp] theorem memWrite_queue (sec : Sec) (a : Addr) (v : Word) : (memWrite sec a v s).queue = s.queue := rfl
@[simp] theorem memWrite_cycle (sec : Sec) (a : Addr) (v : Word) : (memWrite sec a v s).cycle = s.cycle := rfl
@[simp] theorem memWrite_drain (sec : Sec) (a : Addr) (v : Word) : (memWrite sec a v s).drain = s.drain := rfl
@[simp] theorem memWrite_xferReq (sec : Sec) (a : Addr) (v : Word) : (memWrite sec a v s).xferReq = s.xferReq := rfl
@[simp] theorem memWrite_xferPending (sec : Sec) (a : Addr) (v : Word) : (memWrite sec a v s).xferPending = s.xferPending := rfl
@[simp] theorem memWrite_popPending (sec : Sec) (a : Addr) (v : Word) : (memWrite sec a v s).popPending = s.popPending := rfl
@[simp] theorem memWrite_annulNext (sec : Sec) (a : Addr) (v : Word) : (memWrite sec a v s).annulNext = s.annulNext := rfl
@[simp] theorem memWrite_samelog (sec : Sec) (a : Addr) (v : Word) : (memWrite sec a v s).samelog = s.samelog := rfl
@[simp] theorem memWrite_fault (sec : Sec) (a : Addr) (v : Word) : (memWrite sec a v s).fault = s.fault := rfl
@[simp] theorem memWrite_fifo (sec : Sec) (a : Addr) (v : Word) : (memWrite sec a v s).fifo = s.fifo := rfl
@[simp] theorem memWrite_iram (sec : Sec) (a : Addr) (v : Word) : (memWrite sec a v s).iram = s.iram := rfl
@[simp] theorem memWrite_lmem (sec : Sec) (a : Addr) (v : Word) : (memWrite sec a v s).lmem = s.lmem.set sec (Memory.write s.lmem[sec] a.toNat v) := rfl
@[simp] theorem memWrite_cur (sec : Sec) (a : Addr) (v : Word) : (memWrite sec a v s).cur = s.cur := rfl

/-! ## `tick` -/

@[simp] theorem tick_params : (tick s).params = s.params := rfl
@[simp] theorem tick_fpr : (tick s).fpr = s.fpr := rfl
@[simp] theorem tick_fccr : (tick s).fccr = s.fccr := rfl
@[simp] theorem tick_fcsr : (tick s).fcsr = s.fcsr := rfl
@[simp] theorem tick_gpr : (tick s).gpr = s.gpr := rfl
@[simp] theorem tick_an : (tick s).an = s.an := rfl
@[simp] theorem tick_nn : (tick s).nn = s.nn := rfl
@[simp] theorem tick_mn : (tick s).mn = s.mn := rfl
@[simp] theorem tick_rind : (tick s).rind = s.rind := rfl
@[simp] theorem tick_rstep : (tick s).rstep = s.rstep := rfl
@[simp] theorem tick_rmask : (tick s).rmask = s.rmask := rfl
@[simp] theorem tick_pc : (tick s).pc = s.pc := rfl
@[simp] theorem tick_status : (tick s).status = s.status := rfl
@[simp] theorem tick_control : (tick s).control = s.control := rfl
@[simp] theorem tick_comm : (tick s).comm = s.comm := rfl
@[simp] theorem tick_commOrigin : (tick s).commOrigin = s.commOrigin := rfl
@[simp] theorem tick_stopcode : (tick s).stopcode = s.stopcode := rfl
@[simp] theorem tick_lc : (tick s).lc = s.lc := rfl
@[simp] theorem tick_la : (tick s).la = s.la := rfl
@[simp] theorem tick_lsp : (tick s).lsp = s.lsp := rfl
@[simp] theorem tick_psp : (tick s).psp = s.psp := rfl
@[simp] theorem tick_loopstk : (tick s).loopstk = s.loopstk := rfl
@[simp] theorem tick_loopDepth : (tick s).loopDepth = s.loopDepth := rfl
@[simp] theorem tick_callstk : (tick s).callstk = s.callstk := rfl
@[simp] theorem tick_callDepth : (tick s).callDepth = s.callDepth := rfl
@[simp] theorem tick_calpipe : (tick s).calpipe = s.calpipe := rfl
@[simp] theorem tick_lmempipe : (tick s).lmempipe = s.lmempipe := rfl
@[simp] theorem tick_queue : (tick s).queue = s.queue := rfl
@[simp] theorem tick_cycle : (tick s).cycle = s.cycle + 1 := rfl
@[simp] theorem tick_drain : (tick s).drain = s.drain := rfl
@[simp] theorem tick_xferReq : (tick s).xferReq = s.xferReq := rfl
@[simp] theorem tick_xferPending : (tick s).xferPending = s.xferPending := rfl
@[simp] theorem tick_popPending : (tick s).popPending = s.popPending := rfl
@[simp] theorem tick_annulNext : (tick s).annulNext = s.annulNext := rfl
@[simp] theorem tick_samelog : (tick s).samelog = s.samelog := rfl
@[simp] theorem tick_fault : (tick s).fault = s.fault := rfl
@[simp] theorem tick_fifo : (tick s).fifo = s.fifo := rfl
@[simp] theorem tick_iram : (tick s).iram = s.iram := rfl
@[simp] theorem tick_lmem : (tick s).lmem = s.lmem := rfl
@[simp] theorem tick_cur : (tick s).cur = s.cur := rfl

/-! ## `startDrain` -/

@[simp] theorem startDrain_params (kind : DrainKind) : (startDrain kind s).params = s.params := rfl
@[simp] theorem startDrain_fpr (kind : DrainKind) : (startDrain kind s).fpr = s.fpr := rfl
@[simp] theorem startDrain_fccr (kind : DrainKind) : (startDrain kind s).fccr = s.fccr := rfl
@[simp] theorem startDrain_fcsr (kind : DrainKind) : (startDrain kind s).fcsr = s.fcsr := rfl
@[simp] theorem startDrain_gpr (kind : DrainKind) : (startDrain kind s).gpr = s.gpr := rfl
@[simp] theorem startDrain_an (kind : DrainKind) : (startDrain kind s).an = s.an := rfl
@[simp] theorem startDrain_nn (kind : DrainKind) : (startDrain kind s).nn = s.nn := rfl
@[simp] theorem startDrain_mn (kind : DrainKind) : (startDrain kind s).mn = s.mn := rfl
@[simp] theorem startDrain_rind (kind : DrainKind) : (startDrain kind s).rind = s.rind := rfl
@[simp] theorem startDrain_rstep (kind : DrainKind) : (startDrain kind s).rstep = s.rstep := rfl
@[simp] theorem startDrain_rmask (kind : DrainKind) : (startDrain kind s).rmask = s.rmask := rfl
@[simp] theorem startDrain_pc (kind : DrainKind) : (startDrain kind s).pc = s.pc := rfl
@[simp] theorem startDrain_status (kind : DrainKind) : (startDrain kind s).status = s.status := rfl
@[simp] theorem startDrain_control (kind : DrainKind) : (startDrain kind s).control = s.control := rfl
@[simp] theorem startDrain_comm (kind : DrainKind) : (startDrain kind s).comm = s.comm := rfl
@[simp] theorem startDrain_commOrigin (kind : DrainKind) : (startDrain kind s).commOrigin = s.commOrigin := rfl
@[simp] theorem startDrain_stopcode (kind : DrainKind) : (startDrain kind s).stopcode = s.stopcode := rfl
@[simp] theorem startDrain_lc (kind : DrainKind) : (startDrain kind s).lc = s.lc := rfl
@[simp] theorem startDrain_la (kind : DrainKind) : (startDrain kind s).la = s.la := rfl
@[simp] theorem startDrain_lsp (kind : DrainKind) : (startDrain kind s).lsp = s.lsp := rfl
@[simp] theorem startDrain_psp (kind : DrainKind) : (startDrain kind s).psp = s.psp := rfl
@[simp] theorem startDrain_loopstk (kind : DrainKind) : (startDrain kind s).loopstk = s.loopstk := rfl
@[simp] theorem startDrain_loopDepth (kind : DrainKind) : (startDrain kind s).loopDepth = s.loopDepth := rfl
@[simp] theorem startDrain_callstk (kind : DrainKind) : (startDrain kind s).callstk = s.callstk := rfl
@[simp] theorem startDrain_callDepth (kind : DrainKind) : (startDrain kind s).callDepth = s.callDepth := rfl
@[simp] theorem startDrain_calpipe (kind : DrainKind) : (startDrain kind s).calpipe = s.calpipe := rfl
@[simp] theorem startDrain_lmempipe (kind : DrainKind) : (startDrain kind s).lmempipe = s.lmempipe := rfl
@[simp] theorem startDrain_queue (kind : DrainKind) : (startDrain kind s).queue = s.queue := rfl
@[simp] theorem startDrain_cycle (kind : DrainKind) : (startDrain kind s).cycle = s.cycle := rfl
@[simp] theorem startDrain_drain (kind : DrainKind) : (startDrain kind s).drain = { kind := kind, count := drainCycles } := rfl
@[simp] theorem startDrain_xferReq (kind : DrainKind) : (startDrain kind s).xferReq = s.xferReq := rfl
@[simp] theorem startDrain_xferPending (kind : DrainKind) : (startDrain kind s).xferPending = s.xferPending := rfl
@[simp] theorem startDrain_popPending (kind : DrainKind) : (startDrain kind s).popPending = s.popPending := rfl
@[simp] theorem startDrain_annulNext (kind : DrainKind) : (startDrain kind s).annulNext = s.annulNext := rfl
@[simp] theorem startDrain_samelog (kind : DrainKind) : (startDrain kind s).samelog = s.samelog := rfl
@[simp] theorem startDrain_fault (kind : DrainKind) : (startDrain kind s).fault = s.fault := rfl
@[simp] theorem startDrain_fifo (kind : DrainKind) : (startDrain kind s).fifo = s.fifo := rfl
@[simp] theorem startDrain_iram (kind : DrainKind) : (startDrain kind s).iram = s.iram := rfl
@[simp] theorem startDrain_lmem (kind : DrainKind) : (startDrain kind s).lmem = s.lmem := rfl
@[simp] theorem startDrain_cur (kind : DrainKind) : (startDrain kind s).cur = s.cur := rfl

/-! ## `recordFault` -/

@[simp] theorem recordFault_params (r : Fault) : (recordFault r s).params = s.params := rfl
@[simp] theorem recordFault_fpr (r : Fault) : (recordFault r s).fpr = s.fpr := rfl
@[simp] theorem recordFault_fccr (r : Fault) : (recordFault r s).fccr = s.fccr := rfl
@[simp] theorem recordFault_fcsr (r : Fault) : (recordFault r s).fcsr = s.fcsr := rfl
@[simp] theorem recordFault_gpr (r : Fault) : (recordFault r s).gpr = s.gpr := rfl
@[simp] theorem recordFault_an (r : Fault) : (recordFault r s).an = s.an := rfl
@[simp] theorem recordFault_nn (r : Fault) : (recordFault r s).nn = s.nn := rfl
@[simp] theorem recordFault_mn (r : Fault) : (recordFault r s).mn = s.mn := rfl
@[simp] theorem recordFault_rind (r : Fault) : (recordFault r s).rind = s.rind := rfl
@[simp] theorem recordFault_rstep (r : Fault) : (recordFault r s).rstep = s.rstep := rfl
@[simp] theorem recordFault_rmask (r : Fault) : (recordFault r s).rmask = s.rmask := rfl
@[simp] theorem recordFault_pc (r : Fault) : (recordFault r s).pc = s.pc := rfl
@[simp] theorem recordFault_status (r : Fault) : (recordFault r s).status = s.status := rfl
@[simp] theorem recordFault_control (r : Fault) : (recordFault r s).control = s.control := rfl
@[simp] theorem recordFault_comm (r : Fault) : (recordFault r s).comm = s.comm := rfl
@[simp] theorem recordFault_commOrigin (r : Fault) : (recordFault r s).commOrigin = s.commOrigin := rfl
@[simp] theorem recordFault_stopcode (r : Fault) : (recordFault r s).stopcode = s.stopcode := rfl
@[simp] theorem recordFault_lc (r : Fault) : (recordFault r s).lc = s.lc := rfl
@[simp] theorem recordFault_la (r : Fault) : (recordFault r s).la = s.la := rfl
@[simp] theorem recordFault_lsp (r : Fault) : (recordFault r s).lsp = s.lsp := rfl
@[simp] theorem recordFault_psp (r : Fault) : (recordFault r s).psp = s.psp := rfl
@[simp] theorem recordFault_loopstk (r : Fault) : (recordFault r s).loopstk = s.loopstk := rfl
@[simp] theorem recordFault_loopDepth (r : Fault) : (recordFault r s).loopDepth = s.loopDepth := rfl
@[simp] theorem recordFault_callstk (r : Fault) : (recordFault r s).callstk = s.callstk := rfl
@[simp] theorem recordFault_callDepth (r : Fault) : (recordFault r s).callDepth = s.callDepth := rfl
@[simp] theorem recordFault_calpipe (r : Fault) : (recordFault r s).calpipe = s.calpipe := rfl
@[simp] theorem recordFault_lmempipe (r : Fault) : (recordFault r s).lmempipe = s.lmempipe := rfl
@[simp] theorem recordFault_queue (r : Fault) : (recordFault r s).queue = s.queue := rfl
@[simp] theorem recordFault_cycle (r : Fault) : (recordFault r s).cycle = s.cycle := rfl
@[simp] theorem recordFault_drain (r : Fault) : (recordFault r s).drain = s.drain := rfl
@[simp] theorem recordFault_xferReq (r : Fault) : (recordFault r s).xferReq = s.xferReq := rfl
@[simp] theorem recordFault_xferPending (r : Fault) : (recordFault r s).xferPending = s.xferPending := rfl
@[simp] theorem recordFault_popPending (r : Fault) : (recordFault r s).popPending = s.popPending := rfl
@[simp] theorem recordFault_annulNext (r : Fault) : (recordFault r s).annulNext = s.annulNext := rfl
@[simp] theorem recordFault_samelog (r : Fault) : (recordFault r s).samelog = s.samelog := rfl
@[simp] theorem recordFault_fault (r : Fault) : (recordFault r s).fault = some r := rfl
@[simp] theorem recordFault_fifo (r : Fault) : (recordFault r s).fifo = s.fifo := rfl
@[simp] theorem recordFault_iram (r : Fault) : (recordFault r s).iram = s.iram := rfl
@[simp] theorem recordFault_lmem (r : Fault) : (recordFault r s).lmem = s.lmem := rfl
@[simp] theorem recordFault_cur (r : Fault) : (recordFault r s).cur = s.cur := rfl

/-! ## `scheduled` -/

@[simp] theorem scheduled_params (late d : Nat) (ws : List PendingWrite) : (scheduled late d ws s).params = s.params := rfl
@[simp] theorem scheduled_fpr (late d : Nat) (ws : List PendingWrite) : (scheduled late d ws s).fpr = s.fpr := rfl
@[simp] theorem scheduled_fccr (late d : Nat) (ws : List PendingWrite) : (scheduled late d ws s).fccr = s.fccr := rfl
@[simp] theorem scheduled_fcsr (late d : Nat) (ws : List PendingWrite) : (scheduled late d ws s).fcsr = s.fcsr := rfl
@[simp] theorem scheduled_gpr (late d : Nat) (ws : List PendingWrite) : (scheduled late d ws s).gpr = s.gpr := rfl
@[simp] theorem scheduled_an (late d : Nat) (ws : List PendingWrite) : (scheduled late d ws s).an = s.an := rfl
@[simp] theorem scheduled_nn (late d : Nat) (ws : List PendingWrite) : (scheduled late d ws s).nn = s.nn := rfl
@[simp] theorem scheduled_mn (late d : Nat) (ws : List PendingWrite) : (scheduled late d ws s).mn = s.mn := rfl
@[simp] theorem scheduled_rind (late d : Nat) (ws : List PendingWrite) : (scheduled late d ws s).rind = s.rind := rfl
@[simp] theorem scheduled_rstep (late d : Nat) (ws : List PendingWrite) : (scheduled late d ws s).rstep = s.rstep := rfl
@[simp] theorem scheduled_rmask (late d : Nat) (ws : List PendingWrite) : (scheduled late d ws s).rmask = s.rmask := rfl
@[simp] theorem scheduled_pc (late d : Nat) (ws : List PendingWrite) : (scheduled late d ws s).pc = s.pc := rfl
@[simp] theorem scheduled_status (late d : Nat) (ws : List PendingWrite) : (scheduled late d ws s).status = s.status := rfl
@[simp] theorem scheduled_control (late d : Nat) (ws : List PendingWrite) : (scheduled late d ws s).control = s.control := rfl
@[simp] theorem scheduled_comm (late d : Nat) (ws : List PendingWrite) : (scheduled late d ws s).comm = s.comm := rfl
@[simp] theorem scheduled_commOrigin (late d : Nat) (ws : List PendingWrite) : (scheduled late d ws s).commOrigin = s.commOrigin := rfl
@[simp] theorem scheduled_stopcode (late d : Nat) (ws : List PendingWrite) : (scheduled late d ws s).stopcode = s.stopcode := rfl
@[simp] theorem scheduled_lc (late d : Nat) (ws : List PendingWrite) : (scheduled late d ws s).lc = s.lc := rfl
@[simp] theorem scheduled_la (late d : Nat) (ws : List PendingWrite) : (scheduled late d ws s).la = s.la := rfl
@[simp] theorem scheduled_lsp (late d : Nat) (ws : List PendingWrite) : (scheduled late d ws s).lsp = s.lsp := rfl
@[simp] theorem scheduled_psp (late d : Nat) (ws : List PendingWrite) : (scheduled late d ws s).psp = s.psp := rfl
@[simp] theorem scheduled_loopstk (late d : Nat) (ws : List PendingWrite) : (scheduled late d ws s).loopstk = s.loopstk := rfl
@[simp] theorem scheduled_loopDepth (late d : Nat) (ws : List PendingWrite) : (scheduled late d ws s).loopDepth = s.loopDepth := rfl
@[simp] theorem scheduled_callstk (late d : Nat) (ws : List PendingWrite) : (scheduled late d ws s).callstk = s.callstk := rfl
@[simp] theorem scheduled_callDepth (late d : Nat) (ws : List PendingWrite) : (scheduled late d ws s).callDepth = s.callDepth := rfl
@[simp] theorem scheduled_calpipe (late d : Nat) (ws : List PendingWrite) : (scheduled late d ws s).calpipe = s.calpipe := rfl
@[simp] theorem scheduled_lmempipe (late d : Nat) (ws : List PendingWrite) : (scheduled late d ws s).lmempipe = s.lmempipe := rfl
@[simp] theorem scheduled_cycle (late d : Nat) (ws : List PendingWrite) : (scheduled late d ws s).cycle = s.cycle := rfl
@[simp] theorem scheduled_drain (late d : Nat) (ws : List PendingWrite) : (scheduled late d ws s).drain = s.drain := rfl
@[simp] theorem scheduled_xferReq (late d : Nat) (ws : List PendingWrite) : (scheduled late d ws s).xferReq = s.xferReq := rfl
@[simp] theorem scheduled_xferPending (late d : Nat) (ws : List PendingWrite) : (scheduled late d ws s).xferPending = s.xferPending := rfl
@[simp] theorem scheduled_popPending (late d : Nat) (ws : List PendingWrite) : (scheduled late d ws s).popPending = s.popPending := rfl
@[simp] theorem scheduled_annulNext (late d : Nat) (ws : List PendingWrite) : (scheduled late d ws s).annulNext = s.annulNext := rfl
@[simp] theorem scheduled_samelog (late d : Nat) (ws : List PendingWrite) : (scheduled late d ws s).samelog = s.samelog := rfl
@[simp] theorem scheduled_fault (late d : Nat) (ws : List PendingWrite) : (scheduled late d ws s).fault = s.fault := rfl
@[simp] theorem scheduled_fifo (late d : Nat) (ws : List PendingWrite) : (scheduled late d ws s).fifo = s.fifo := rfl
@[simp] theorem scheduled_iram (late d : Nat) (ws : List PendingWrite) : (scheduled late d ws s).iram = s.iram := rfl
@[simp] theorem scheduled_lmem (late d : Nat) (ws : List PendingWrite) : (scheduled late d ws s).lmem = s.lmem := rfl
@[simp] theorem scheduled_cur (late d : Nat) (ws : List PendingWrite) : (scheduled late d ws s).cur = s.cur := rfl

end Sys2Proof.Machine
end

