-- ==== Sys2Proof/Laws/Memory.lean ====
section
/-! SUPPORT. Reading after writing, and that every memory operation keeps the canonical form. -/

namespace Sys2Proof.Machine

@[simp] theorem read_nil (a : Nat) : Memory.read [] a = 0 := rfl

@[simp] theorem read_cons (b : Nat) (v : Word) (m : Memory) (a : Nat) :
    Memory.read ((b, v) :: m) a = if a = b then v else Memory.read m a := rfl

/-- A word below every listed address reads 0. -/
theorem read_below {m : Memory} {a : Nat} (h : ∀ c ∈ m, a < c.1) : Memory.read m a = 0 := by
  induction m with
  | nil => rfl
  | cons c m ih =>
    obtain ⟨b, v⟩ := c
    have hb : a < b := h (b, v) (by simp)
    rw [read_cons, if_neg (by omega), ih fun c hc => h c (by simp [hc])]

/-- Every listed cell is one that was listed, or the one written. -/
theorem mem_write {m : Memory} {a : Nat} {v : Word} {c : Nat × Word} (h : c ∈ Memory.write m a v) :
    c ∈ m ∨ (c = (a, v) ∧ v ≠ 0) := by
  induction m with
  | nil =>
    simp only [Memory.write] at h
    split at h <;> simp_all
  | cons d m ih =>
    obtain ⟨b, w⟩ := d
    simp only [Memory.write] at h
    split at h
    · split at h <;> simp_all
      tauto
    · split at h
      · split at h <;> simp_all
        tauto
      · rcases List.mem_cons.mp h with h | h
        · exact .inl (by simp [h])
        · exact (ih h).imp (fun h => by simp [h]) id

/-- A write keeps the canonical form. -/
theorem write_wf {m : Memory} (h : Memory.wf m) (a : Nat) (v : Word) : Memory.wf (Memory.write m a v) := by
  induction m with
  | nil =>
    simp only [Memory.write]
    split <;> simp_all [Memory.wf]
  | cons d m ih =>
    obtain ⟨b, w⟩ := d
    obtain ⟨hp, hz⟩ := h
    rw [List.pairwise_cons] at hp
    have hm : Memory.wf m := ⟨hp.2, fun c hc => hz c (by simp [hc])⟩
    have hw : w ≠ 0 := hz (b, w) (by simp)
    simp only [Memory.write]
    split
    · rename_i hab
      split
      · exact ⟨List.pairwise_cons.mpr hp, hz⟩
      · rename_i hv
        refine ⟨List.pairwise_cons.mpr ⟨?_, List.pairwise_cons.mpr hp⟩, ?_⟩
        · intro c hc
          rcases List.mem_cons.mp hc with rfl | hc
          · exact hab
          · exact lt_trans hab (hp.1 c hc)
        · intro c hc
          rcases List.mem_cons.mp hc with rfl | hc
          · exact hv
          · exact hz c hc
    · split
      · rename_i hab
        subst hab
        split
        · exact hm
        · rename_i hv
          refine ⟨List.pairwise_cons.mpr ⟨hp.1, hp.2⟩, ?_⟩
          intro c hc
          rcases List.mem_cons.mp hc with rfl | hc
          · exact hv
          · exact hm.2 c hc
      · rename_i h1 h2
        have hi := ih hm
        refine ⟨List.pairwise_cons.mpr ⟨?_, hi.1⟩, ?_⟩
        · intro c hc
          rcases mem_write hc with hc | ⟨rfl, -⟩
          · exact hp.1 c hc
          · show b < a
            omega
        · intro c hc
          rcases List.mem_cons.mp hc with rfl | hc
          · exact hw
          · exact hi.2 c hc

/-- A write within the bound keeps the bound. -/
theorem write_in {n : Nat} {m : Memory} (h : MemoryIn n m) {a : Nat} (ha : a < n) (v : Word) :
    MemoryIn n (Memory.write m a v) := by
  refine ⟨write_wf h.1 a v, fun c hc => ?_⟩
  rcases mem_write hc with hc | ⟨rfl, -⟩
  · exact h.2 c hc
  · exact ha

/-- A read after a write gives the value written at the address, and what was there elsewhere. -/
theorem read_write {m : Memory} (h : Memory.wf m) (a : Nat) (v : Word) (x : Nat) :
    Memory.read (Memory.write m a v) x = if x = a then v else Memory.read m x := by
  induction m with
  | nil =>
    simp only [Memory.write]
    split <;> simp_all
  | cons d m ih =>
    obtain ⟨b, w⟩ := d
    obtain ⟨hp, hz⟩ := h
    rw [List.pairwise_cons] at hp
    have hm : Memory.wf m := ⟨hp.2, fun c hc => hz c (by simp [hc])⟩
    simp only [Memory.write]
    split
    · rename_i hab
      split
      · rename_i hv
        split
        · rename_i hx
          subst hx hv
          exact read_below (by
            intro c hc
            rcases List.mem_cons.mp hc with rfl | hc
            · exact hab
            · exact lt_trans hab (hp.1 c hc))
        · rfl
      · simp only [read_cons]
    · split
      · rename_i hab
        subst hab
        split
        · rename_i hv
          split
          · rename_i hx
            subst hx hv
            exact read_below hp.1
          · rename_i hx
            rw [read_cons, if_neg hx]
        · simp only [read_cons]
          split <;> simp_all
      · rename_i h1 h2
        simp only [read_cons, ih hm]
        split
        · rename_i hx
          subst hx
          rw [if_neg (by omega)]
        · rfl

/-- A core read of one section after a core write: the word written at its section and address, else the old word
(20_memory.md R80). -/
theorem memRead_memWrite {s : State} (h : ∀ sec : Sec, Memory.wf s.lmem[sec]) (sec k : Sec) (a x : Addr) (v : Word) :
    memRead k x (memWrite sec a v s) = if k = sec ∧ x = a then v else memRead k x s := by
  have hx : (x.toNat = a.toNat) = (x = a) := by rw [BitVec.toNat_inj]
  unfold memRead
  by_cases hk : k = sec
  · subst hk
    have hw : Memory.wf s.lmem[k.val] := h k
    simp [memWrite, read_write hw, hx]
  · have : sec.val ≠ k.val := fun e => hk (Fin.ext e.symm)
    simp [memWrite, this, hk]

/-- A core write keeps every local memory canonical and in range. -/
theorem memWrite_in {s : State} (h : ∀ sec : Sec, MemoryIn 65536 s.lmem[sec]) (sec : Sec) (a : Addr) (v : Word) :
    ∀ k : Sec, MemoryIn 65536 (memWrite sec a v s).lmem[k] := by
  intro k
  by_cases hk : sec.val = k.val
  · have : k = sec := Fin.ext hk.symm
    subst this
    simpa [memWrite] using write_in (h k) a.isLt v
  · simpa [memWrite, hk] using h k

/-- A core write keeps every local memory canonical. -/
theorem memWrite_wf {s : State} (h : ∀ sec : Sec, Memory.wf s.lmem[sec]) (sec : Sec) (a : Addr) (v : Word) :
    ∀ k : Sec, Memory.wf (memWrite sec a v s).lmem[k] := by
  intro k
  by_cases hk : sec.val = k.val
  · have : k = sec := Fin.ext hk.symm
    subst this
    simpa [memWrite] using write_wf (h k) a.toNat v
  · simpa [memWrite, hk] using h k

/-- The memories after reset are canonical. -/
theorem reset_memory_wf : Memory.wf State.reset.iram ∧ ∀ sec : Sec, Memory.wf State.reset.lmem[sec] := by decide

end Sys2Proof.Machine
end

