-- ==== Sys2Proof/Laws/Queue.lean ====
section
/-! SUPPORT. What scheduling a write can do, said once (40_machine.md R151, R153, R158), and how lists of writes
compose. A handler that only schedules is described by `Appends`. -/

namespace Sys2Proof.Machine

/-! ## Lists of writes -/

@[simp] theorem andThen_next (s : State) (f : State → Res) : andThen (.next s) f = f s := rfl

@[simp] theorem andThen_fault (r : Fault) (f : State → Res) : andThen (.fault r) f = .fault r := rfl

@[simp] theorem andThen_refused (r : Refusal) (f : State → Res) : andThen (.refused r) f = .refused r := rfl

/-- A computation that goes on has a first part that went on. -/
theorem andThen_eq_next {o : Res} {f : State → Res} {t : State} (h : andThen o f = .next t) :
    ∃ u, o = .next u ∧ f u = .next t := by
  cases o with
  | next u => exact ⟨u, rfl, h⟩
  | fault r => cases h
  | refused r => cases h

theorem andThen_assoc (o : Res) (f g : State → Res) :
    andThen (andThen o f) g = andThen o fun s => andThen (f s) g := by cases o <;> rfl

@[simp] theorem appendWrites_nil (k : Nat) (s : State) : appendWrites k [] s = s := by
  have : s.queue.set k (s.queue.getD k []) = s.queue := by
    rcases Nat.lt_or_ge k s.queue.length with h | h
    · simp [List.getD_eq_getElem?_getD, h]
    · exact List.set_eq_of_length_le h
  simp only [appendWrites, slot, List.append_nil, this]

theorem appendWrites_append (k : Nat) (xs ys : List PendingWrite) (s : State) :
    appendWrites k ys (appendWrites k xs s) = appendWrites k (xs ++ ys) s := by
  rcases Nat.lt_or_ge k s.queue.length with h | h
  · simp [appendWrites, slot, List.getD_eq_getElem?_getD, h]
  · simp [appendWrites, List.set_eq_of_length_le h]

/-- The slot written to, after writes are appended to a slot the queue has. -/
theorem slot_appendWrites {k : Nat} {s : State} (h : k < s.queue.length) (ws : List PendingWrite) (j : Nat) :
    slot j (appendWrites k ws s) = if j = k then slot k s ++ ws else slot j s := by
  unfold slot appendWrites
  by_cases hj : j = k
  · subst hj
    simp [slot, List.getD_eq_getElem?_getD, h]
  · simp [List.getD_eq_getElem?_getD, hj, Ne.symm hj]

/-- Appending to a slot the queue has not changes nothing. -/
theorem appendWrites_of_length_le {k : Nat} {s : State} (h : s.queue.length ≤ k) (ws : List PendingWrite) :
    appendWrites k ws s = s := by
  simp [appendWrites, List.set_eq_of_length_le h]

@[simp] theorem slotIndex_appendWrites (late d k : Nat) (ws : List PendingWrite) (s : State) :
    slotIndex late d (appendWrites k ws s) = slotIndex late d s := rfl

@[simp] theorem coreWrite_appendWrites (r : Reg) (v m : Word) (b : Bool) (k : Nat) (ws : List PendingWrite)
    (s : State) : coreWrite r v m b (appendWrites k ws s) = coreWrite r v m b s := rfl

@[simp] theorem rfRead_appendWrites (r : Reg) (k : Nat) (ws : List PendingWrite) (s : State) :
    rfRead r (appendWrites k ws s) = rfRead r s := by cases r <;> rfl

@[simp] theorem scheduled_nil (late d : Nat) (s : State) : scheduled late d [] s = s := appendWrites_nil _ _

theorem scheduled_append (late d : Nat) (xs ys : List PendingWrite) (s : State) :
    scheduled late d ys (scheduled late d xs s) = scheduled late d (xs ++ ys) s := appendWrites_append _ _ _ _

@[simp] theorem coreWrite_scheduled (r : Reg) (v m : Word) (b : Bool) (late d : Nat) (ws : List PendingWrite)
    (s : State) : coreWrite r v m b (scheduled late d ws s) = coreWrite r v m b s := rfl

@[simp] theorem slotIndex_scheduled (l₁ d₁ l₂ d₂ : Nat) (ws : List PendingWrite) (s : State) :
    slotIndex l₁ d₁ (scheduled l₂ d₂ ws s) = slotIndex l₁ d₁ s := rfl

@[simp] theorem rfRead_scheduled (r : Reg) (late d : Nat) (ws : List PendingWrite) (s : State) :
    rfRead r (scheduled late d ws s) = rfRead r s := rfRead_appendWrites ..

@[simp] theorem queue_length_scheduled (late d : Nat) (ws : List PendingWrite) (s : State) :
    (scheduled late d ws s).queue.length = s.queue.length := by simp [scheduled, appendWrites]

/-! ## The bypass read -/

/-- A write a read of `r` can find (40_machine.md R158). -/
def bypasses (r : Reg) (w : PendingWrite) : Bool := decide (w.reg = r) && w.bypass

/-- The bypassable write to `r` that commits last among those of a slot. -/
def lastBypass (r : Reg) (ws : List PendingWrite) : Option PendingWrite := ws.reverse.find? (bypasses r)

/-- A bypass read as a search slot by slot (40_machine.md R158). -/
theorem readReg_eq (r : Reg) (s : State) :
    readReg r s =
      match (List.range s.params.queueDepth).reverse.findSome? fun t =>
          lastBypass r (slot ((s.cycle + t) % s.params.queueDepth) s) with
      | some w => merge (rfRead r s) w.value w.mask
      | none => rfRead r s := by
  unfold readReg pendingNewestFirst lastBypass
  rw [List.find?_flatMap]
  rfl

/-- A read that finds the writes it found before gives what it gave before. -/
theorem readReg_congr {r : Reg} {s t : State} (hp : t.params = s.params) (hc : t.cycle = s.cycle)
    (hr : rfRead r t = rfRead r s) (hs : ∀ k, lastBypass r (slot k t) = lastBypass r (slot k s)) :
    readReg r t = readReg r s := by
  rw [readReg_eq, readReg_eq, hp, hc, hr]
  simp only [hs]

theorem lastBypass_append {r : Reg} {xs ys : List PendingWrite} (h : ∀ w ∈ ys, bypasses r w = false) :
    lastBypass r (xs ++ ys) = lastBypass r xs := by
  unfold lastBypass
  rw [List.reverse_append, List.find?_append]
  have : ys.reverse.find? (bypasses r) = none := by
    rw [List.find?_eq_none]
    intro w hw
    simp [h w (List.mem_reverse.mp hw)]
  simp [this]

/-- Writes that a read of `r` cannot find do not change what it gives (40_machine.md R158, R159). -/
theorem readReg_scheduled {r : Reg} {ws : List PendingWrite} (h : ∀ w ∈ ws, bypasses r w = false) (late d : Nat)
    (s : State) : readReg r (scheduled late d ws s) = readReg r s := by
  refine readReg_congr rfl rfl (rfRead_scheduled ..) fun k => ?_
  unfold scheduled
  rcases Nat.lt_or_ge (slotIndex late d s) s.queue.length with hl | hl
  · rw [slot_appendWrites hl]
    split
    · rename_i hk
      subst hk
      exact lastBypass_append h
    · rfl
  · rw [appendWrites_of_length_le hl]

/-! ## What scheduling can do -/

/-- The outcome `o` of a handler that schedules the writes `ws` with delay `d`, in this order, and does nothing else:
the state with the writes appended, a slot of the queue keeping its bound, or `QueueOverflow` where the slot has no room
for them. -/
def Appends (late d : Nat) (ws : List PendingWrite) (s : State) (o : Res) : Prop :=
  (o = .next (scheduled late d ws s) ∧
      (slotIndex late d s < s.queue.length → RoomFor late d 0 s → RoomFor late d ws.length s)) ∨
    (o = .fault .queueOverflow ∧ ¬ RoomFor late d ws.length s)

theorem RoomFor.mono {late d k n : Nat} {s : State} (h : RoomFor late d n s) (hk : k ≤ n) : RoomFor late d k s :=
  fun m hm => le_trans (Nat.add_le_add_left hk _) (h m hm)

theorem Appends.nil (late d : Nat) (s : State) : Appends late d [] s (.next s) :=
  .inl ⟨by rw [scheduled_nil], fun _ => id⟩

/-- A handler that schedules `ws` goes on where the slot has room. -/
theorem Appends.next {late d : Nat} {ws : List PendingWrite} {s : State} {o : Res} (h : Appends late d ws s o)
    (hr : RoomFor late d ws.length s) : o = .next (scheduled late d ws s) :=
  h.elim And.left fun h => absurd hr h.2

/-- A handler that schedules `ws` and goes on has scheduled `ws`. -/
theorem Appends.eq_of_next {late d : Nat} {ws : List PendingWrite} {s t : State} (h : Appends late d ws s (.next t)) :
    t = scheduled late d ws s ∧
      (slotIndex late d s < s.queue.length → RoomFor late d 0 s → RoomFor late d ws.length s) := by
  rcases h with ⟨h, hr⟩ | ⟨h, -⟩
  · exact ⟨Host.Outcome.next.inj h, hr⟩
  · cases h

/-- One scheduled write (40_machine.md R153). -/
theorem schedAt_appends (late : Nat) (r : Reg) (v m : Word) (d : Nat) (b : Bool) (s : State) :
    Appends late d [coreWrite r v m b s] s (schedAt late r v m d b s) := by
  unfold schedAt Appends RoomFor
  split
  · rename_i h
    exact .inr ⟨rfl, fun hr => by have := hr _ h; simp at this⟩
  · rename_i h
    refine .inl ⟨rfl, fun _ h0 n hn => ?_⟩
    have h1 := h0 n hn
    have h2 : n ≠ (slot (slotIndex late d s) s).length := fun e => h (by rw [hn, e])
    simp
    omega

theorem sched_appends (r : Reg) (v m : Word) (d : Nat) (b : Bool) (s : State) :
    Appends 0 d [coreWrite r v m b s] s (sched r v m d b s) := schedAt_appends ..

/-- The room left after `xs` where there was room for `xs ++ ys`. -/
theorem roomFor_scheduled {late d n : Nat} {xs : List PendingWrite} {s : State}
    (h : RoomFor late d (xs.length + n) s) : RoomFor late d n (scheduled late d xs s) := by
  intro m hm
  have := h m hm
  unfold scheduled
  rcases Nat.lt_or_ge (slotIndex late d s) s.queue.length with hl | hl
  · rw [slotIndex_appendWrites, slot_appendWrites hl, if_pos rfl, List.length_append]
    omega
  · rw [appendWrites_of_length_le hl]
    omega

theorem not_roomFor_scheduled {late d n : Nat} {xs : List PendingWrite} {s : State}
    (h : ¬ RoomFor late d n (scheduled late d xs s)) : ¬ RoomFor late d (xs.length + n) s :=
  fun hr => h (roomFor_scheduled hr)

/-- Two handlers, one after the other, schedule both lists. -/
theorem Appends.seq {late d : Nat} {xs ys : List PendingWrite} {s : State} {o : Res} {f : State → Res}
    (h : Appends late d xs s o)
    (hf : Appends late d ys (scheduled late d xs s) (f (scheduled late d xs s))) :
    Appends late d (xs ++ ys) s (andThen o f) := by
  rcases h with ⟨rfl, hr⟩ | ⟨rfl, hr⟩
  · rw [andThen_next]
    rcases hf with ⟨hf, hr'⟩ | ⟨hf, hr'⟩
    · refine .inl ⟨by rw [hf, scheduled_append], fun hl h0 => ?_⟩
      have h1 := hr hl h0
      have h2 := hr' (by simpa using hl) (roomFor_scheduled h1)
      intro m hm
      have := h2 m hm
      unfold scheduled at this
      rw [slotIndex_appendWrites, slot_appendWrites hl, if_pos rfl, List.length_append] at this
      rw [List.length_append]
      omega
    · exact .inr ⟨hf, by rw [List.length_append]; exact not_roomFor_scheduled hr'⟩
  · exact .inr ⟨rfl, fun h => hr (h.mono (by simp))⟩

end Sys2Proof.Machine
end

