-- ==== Sys2Proof/Laws/Arith.lean ====
section
/-! SUPPORT. What the hi sub-instructions can do, said once for each shared handler (41_arith.md). -/

namespace Sys2Proof.Machine

/-! ## The floating-point handlers -/

/-- The writes of `WriteFlags` (41_arith.md R224). -/
theorem writeFlags_appends (sec : Sec) (f : FpFlags) (d : Nat) (b : Bool) (s : State) :
    Appends 0 d (flagWrites sec f b s) s (writeFlags sec f d b s) := by
  unfold writeFlags flagWrites
  split
  · exact .nil ..
  · exact (sched_appends ..).seq (ys := [_]) (sched_appends ..)

/-- A register that a section's hi writes go to: its destination, its FCSR or STATUS. -/
theorem flagWrites_reg {sec : Sec} {f : FpFlags} {b : Bool} {s : State} {w : PendingWrite}
    (h : w ∈ flagWrites sec f b s) : w.reg = .fcsr sec ∨ w.reg = .status := by
  unfold flagWrites at h
  split at h
  · cases h
  · simp at h
    rcases h with rfl | rfl
    · exact .inl rfl
    · exact .inr rfl

@[simp] theorem flagWrites_scheduled (sec : Sec) (f : FpFlags) (b : Bool) (late d : Nat) (ws : List PendingWrite)
    (s : State) : flagWrites sec f b (scheduled late d ws s) = flagWrites sec f b s := rfl

/-- The four sections in turn, each scheduling what it would schedule from the state before the first. -/
theorem forSections_appends {d : Nat} {s : State} (f : Sec → State → Res) (ws : Sec → List PendingWrite)
    (h : ∀ sec, ∀ pre : List PendingWrite, (∀ w ∈ pre, ∃ k, k < sec ∧ w ∈ ws k) →
      Appends 0 d (ws sec) (scheduled 0 d pre s) (f sec (scheduled 0 d pre s))) :
    Appends 0 d (sectionWrites ws) s (forSections f s) := by
  have h0 := h 0 [] (by simp)
  have h1 := h 1 (ws 0) (fun w hw => ⟨0, by decide, hw⟩)
  have h2 := h 2 (ws 0 ++ ws 1) (fun w hw => by
    rcases List.mem_append.mp hw with hw | hw
    · exact ⟨0, by decide, hw⟩
    · exact ⟨1, by decide, hw⟩)
  have h3 := h 3 (ws 0 ++ (ws 1 ++ ws 2)) (fun w hw => by
    simp only [List.mem_append] at hw
    rcases hw with hw | hw | hw
    · exact ⟨0, by decide, hw⟩
    · exact ⟨1, by decide, hw⟩
    · exact ⟨2, by decide, hw⟩)
  simp only [scheduled_nil] at h0
  unfold forSections sectionWrites
  simp only [List.append_assoc]
  refine h0.seq (h1.seq ?_)
  rw [scheduled_append]
  refine h2.seq ?_
  rw [scheduled_append, List.append_assoc]
  exact h3

/-- A section's operands are not changed by the writes of other sections (40_machine.md R172). -/
theorem readReg_other_section {ws : List PendingWrite} {sec : Sec} {r : Reg}
    (hr : (∃ i, r = .fpr sec i) ∨ r = .fccr sec)
    (h : ∀ w ∈ ws, w.reg = .status ∨ ∃ k, k ≠ sec ∧ ((∃ i, w.reg = .fpr k i) ∨ w.reg = .fccr k ∨ w.reg = .fcsr k))
    (late d : Nat) (s : State) : readReg r (scheduled late d ws s) = readReg r s := by
  refine readReg_scheduled (fun w hw => ?_) late d s
  have := h w hw
  unfold bypasses
  rcases hr with ⟨i, rfl⟩ | rfl <;> rcases this with h | ⟨k, hk, ⟨j, h⟩ | h | h⟩ <;> simp [h] <;> intros <;> contradiction


/-- A register that the hi or compare writes of a section go to. -/
def sectionReg (sec : Sec) (r : Reg) : Prop :=
  r = .status ∨ (∃ i, r = .fpr sec i) ∨ r = .fccr sec ∨ r = .fcsr sec

theorem readReg_section {pre : List PendingWrite} {ws : Sec → List PendingWrite} {sec : Sec} {r : Reg}
    (hr : (∃ i, r = .fpr sec i) ∨ r = .fccr sec) (hw : ∀ k, ∀ w ∈ ws k, sectionReg k w.reg)
    (h : ∀ w ∈ pre, ∃ k, k < sec ∧ w ∈ ws k) (late d : Nat) (s : State) :
    readReg r (scheduled late d pre s) = readReg r s := by
  refine readReg_other_section hr (fun w hm => ?_) late d s
  obtain ⟨k, hk, hm⟩ := h w hm
  rcases hw k w hm with h | h
  · exact .inl h
  · exact .inr ⟨k, ne_of_lt hk, h⟩

/-- The second operand of `ExecHi` (41_arith.md R223). -/
def hiOperand (ft : Option (Fin 64)) (sec : Sec) (s : State) : Word :=
  match ft with
  | some i => readFpr sec i s
  | none => 0

theorem hiSection_appends (op : ArithOp) (p : Bool) (cc : Fin 8) (fd fs : Fin 64) (ft : Option (Fin 64))
    (sec : Sec) (s : State) :
    Appends 0 (s.params.lat.get (.arith op)) (hiSectionWrites op p cc fd fs (hiOperand ft sec s) sec s) s
      (hiSection op p cc fd fs ft sec s) := by
  unfold hiSection hiSectionWrites
  split
  · exact (sched_appends ..).seq (xs := [_]) (writeFlags_appends ..)
  · exact .nil ..

theorem hiSectionWrites_reg {op : ArithOp} {p : Bool} {cc : Fin 8} {fd fs : Fin 64} {y : Word} {sec : Sec}
    {s : State} {w : PendingWrite} (h : w ∈ hiSectionWrites op p cc fd fs y sec s) : sectionReg sec w.reg := by
  unfold hiSectionWrites at h
  split at h
  · rcases List.mem_cons.mp h with rfl | h
    · exact .inr (.inl ⟨fd, rfl⟩)
    · rcases flagWrites_reg h with h | h
      · exact .inr (.inr (.inr h))
      · exact .inl h
  · cases h

/-- What `ExecHi` schedules in a section does not depend on what earlier sections have scheduled (41_arith.md R223). -/
theorem hiSectionWrites_congr {s t : State} {sec : Sec} (hp : t.params = s.params) (hc : t.cycle = s.cycle)
    (hr : ∀ r, ((∃ i, r = .fpr sec i) ∨ r = .fccr sec) → readReg r t = readReg r s) (op : ArithOp) (p : Bool)
    (cc : Fin 8) (fd fs : Fin 64) (ft : Option (Fin 64)) :
    hiSectionWrites op p cc fd fs (hiOperand ft sec t) sec t =
      hiSectionWrites op p cc fd fs (hiOperand ft sec s) sec s := by
  have hf : ∀ i, readFpr sec i t = readFpr sec i s := fun i => hr _ (.inl ⟨i, rfl⟩)
  have ha : sectionActive p cc sec t = sectionActive p cc sec s := by
    unfold sectionActive
    rw [hr _ (.inr rfl)]
  have hy : hiOperand ft sec t = hiOperand ft sec s := by
    unfold hiOperand
    split
    · exact hf _
    · rfl
  have hcw : ∀ r v m b, coreWrite r v m b t = coreWrite r v m b s := by
    intros
    unfold coreWrite
    rw [hc]
  unfold hiSectionWrites flagWrites
  simp only [ha, hf, hy, hp, hcw]

/-- What the stage-1 handler of `ExecHi` can do (41_arith.md R223). -/
theorem execHi_appends {s : State} (h : s.cur.stage = 1) (op : ArithOp) (p : Bool) (cc : Fin 8) (fd fs : Fin 64)
    (ft : Option (Fin 64)) :
    Appends 0 (s.params.lat.get (.arith op))
      (sectionWrites fun sec => hiSectionWrites op p cc fd fs (hiOperand ft sec s) sec s) s
      (execHi op p cc fd fs ft s) := by
  unfold execHi inStage1
  rw [if_pos h]
  refine forSections_appends _ _ fun sec pre hpre => ?_
  have hr : ∀ r, ((∃ i, r = .fpr sec i) ∨ r = .fccr sec) → readReg r (scheduled 0 _ pre s) = readReg r s :=
    fun r hr => readReg_section hr (fun k w hw => hiSectionWrites_reg hw) hpre 0 (s.params.lat.get (.arith op)) s
  have ha := hiSection_appends op p cc fd fs ft sec (scheduled 0 (s.params.lat.get (.arith op)) pre s)
  rwa [hiSectionWrites_congr (s := s) (t := scheduled 0 (s.params.lat.get (.arith op)) pre s) rfl rfl hr] at ha

/-! ## The compares -/

theorem cmpSection_appends (op : CmpOp) (cc : Fin 8) (fs ft : Fin 64) (sec : Sec) (s : State) :
    Appends 0 (s.params.lat.get (.cmp op)) (cmpSectionWrites op cc fs ft sec s) s (cmpSection op cc fs ft sec s) :=
  (sched_appends ..).seq (xs := [_]) (writeFlags_appends ..)

theorem cmpSectionWrites_reg {op : CmpOp} {cc : Fin 8} {fs ft : Fin 64} {sec : Sec} {s : State} {w : PendingWrite}
    (h : w ∈ cmpSectionWrites op cc fs ft sec s) : sectionReg sec w.reg := by
  rcases List.mem_cons.mp h with rfl | h
  · exact .inr (.inr (.inl rfl))
  · rcases flagWrites_reg h with h | h
    · exact .inr (.inr (.inr h))
    · exact .inl h

theorem cmpSectionWrites_congr {s t : State} {sec : Sec} (hp : t.params = s.params) (hc : t.cycle = s.cycle)
    (hr : ∀ r, ((∃ i, r = .fpr sec i) ∨ r = .fccr sec) → readReg r t = readReg r s) (op : CmpOp) (cc : Fin 8)
    (fs ft : Fin 64) : cmpSectionWrites op cc fs ft sec t = cmpSectionWrites op cc fs ft sec s := by
  have hf : ∀ i, readFpr sec i t = readFpr sec i s := fun i => hr _ (.inl ⟨i, rfl⟩)
  have hcw : ∀ r v m b, coreWrite r v m b t = coreWrite r v m b s := by
    intros
    unfold coreWrite
    rw [hc]
  unfold cmpSectionWrites flagWrites
  simp only [hf, hp, hcw]

/-- What the stage-1 handler of a compare can do (41_arith.md R234). -/
theorem execCmp_appends {s : State} (h : s.cur.stage = 1) (op : CmpOp) (cc : Fin 8) (fs ft : Fin 64) :
    Appends 0 (s.params.lat.get (.cmp op)) (cmpWrites op cc fs ft s) s (execCmp op cc fs ft s) := by
  unfold execCmp inStage1 cmpWrites
  rw [if_pos h]
  refine forSections_appends _ _ fun sec pre hpre => ?_
  have hr : ∀ r, ((∃ i, r = .fpr sec i) ∨ r = .fccr sec) → readReg r (scheduled 0 _ pre s) = readReg r s :=
    fun r hr => readReg_section hr (fun k w hw => cmpSectionWrites_reg hw) hpre 0 (s.params.lat.get (.cmp op)) s
  have ha := cmpSection_appends op cc fs ft sec (scheduled 0 (s.params.lat.get (.cmp op)) pre s)
  rwa [cmpSectionWrites_congr (s := s) (t := scheduled 0 (s.params.lat.get (.cmp op)) pre s) rfl rfl hr] at ha

/-! ## The permute -/

theorem permSectionWrites_reg {p : Bool} {cc : Fin 8} {fd fs ft : Fin 64} {sec : Sec} {s : State} {w : PendingWrite}
    (h : w ∈ permSectionWrites p cc fd fs ft sec s) : w.reg = .fpr sec fd := by
  unfold permSectionWrites at h
  split at h
  · simp at h
    rw [h]
    rfl
  · cases h

/-- What the stage-1 handler of `FPERM` can do (41_arith.md R238). -/
theorem execFperm_appends {s : State} (h : s.cur.stage = 1) (p : Bool) (cc : Fin 8) (fd fs ft : Fin 64) :
    Appends 0 (s.params.lat.get .perm) (permWrites p cc fd fs ft s) s (execFperm p cc fd fs ft s) := by
  unfold execFperm inStage1 permWrites permHandler
  rw [if_pos h]
  refine forSections_appends _ _ fun sec pre hpre => ?_
  have ha : sectionActive p cc sec (scheduled 0 (s.params.lat.get .perm) pre s) = sectionActive p cc sec s := by
    unfold sectionActive
    rw [readReg_section (.inr rfl) (fun k w hw => .inr (.inl ⟨fd, permSectionWrites_reg hw⟩)) hpre]
  unfold permSection permSectionWrites readAllSections
  rw [ha]
  split
  · exact sched_appends ..
  · exact .nil ..

end Sys2Proof.Machine
end

