-- ==== Sys2Proof/Laws/Commit.lean ====
section
/-! SUPPORT. What writing and committing a register can do (10_state.md R20; 40_machine.md R154). -/

namespace Sys2Proof.Machine

/-- Reading a vector after one entry is set. -/
theorem vector_set_get {α : Type} {n : Nat} (v : Vector α n) (i j : Fin n) (x : α) :
    (v.set i x)[j] = if j = i then x else v[j] := by
  rw [show (v.set i x)[j] = (v.set i.val x)[j.val] from rfl, Vector.getElem_set]
  by_cases h : j = i
  · subst h
    simp
  · rw [if_neg (fun e => h (Fin.ext e.symm)), if_neg h]
    rfl

theorem setWidth32_eq_and (v : Word) : (v.setWidth 32).setWidth 64 = v &&& 4294967295#64 := by
  have h : ∀ i (hi : i < 64), (4294967295#64)[i] = decide (i < 32) := by decide
  ext i hi
  rw [BitVec.getElem_and, h]
  simp [BitVec.getLsbD_eq_getElem hi, Bool.and_comm]

theorem setWidth16_eq_and (v : Word) : (v.setWidth 16).setWidth 64 = v &&& 65535#64 := by
  have h : ∀ i (hi : i < 64), (65535#64)[i] = decide (i < 16) := by decide
  ext i hi
  rw [BitVec.getElem_and, h]
  simp [BitVec.getLsbD_eq_getElem hi, Bool.and_comm]

theorem setWidth8_eq_and (v : Word) : (v.setWidth 8).setWidth 64 = v &&& 255#64 := by
  have h : ∀ i (hi : i < 64), (255#64)[i] = decide (i < 8) := by decide
  ext i hi
  rw [BitVec.getElem_and, h]
  simp [BitVec.getLsbD_eq_getElem hi, Bool.and_comm]

theorem eq_and_allOnes (v : Word) : v = v &&& 18446744073709551615#64 := (BitVec.and_allOnes (x := v)).symm

/-- A register reads as the value written to it, cut to its width (10_state.md R20). -/
theorem rfRead_rfWrite_same (r : Reg) (v : Word) (s : State) : rfRead r (rfWrite r v s) = v &&& regBits r := by
  cases r <;> simp [rfRead, rfWrite, regBits] <;>
    first
    | exact setWidth32_eq_and v
    | exact setWidth16_eq_and v
    | exact setWidth8_eq_and v
    | exact eq_and_allOnes v

/-- A write leaves every other register as it is. -/
theorem rfRead_rfWrite_other {r r' : Reg} (h : r' ≠ r) (v : Word) (s : State) :
    rfRead r' (rfWrite r v s) = rfRead r' s := by
  cases r <;> cases r' <;>
    first
    | exact absurd rfl h
    | rfl
    | skip
  · rename_i a b c d
    refine (congrArg (fun x : Vector Word 64 => x[d]) (vector_set_get s.fpr a c _)).trans ?_
    by_cases e : c = a
    · subst e
      rw [if_pos rfl]
      refine (vector_set_get (s.fpr[c]) b d v).trans (if_neg ?_)
      intro e
      exact h (by rw [e])
    · rw [if_neg e]
      rfl
  all_goals
    simp only [rfRead, rfWrite]
    refine congrArg _ ((vector_set_get _ _ _ _).trans (if_neg ?_))
    intro e
    exact h (by rw [e])

theorem rfRead_commOrigin (r : Reg) (o : Origin) (s : State) : rfRead r { s with commOrigin := o } = rfRead r s := by
  cases r <;> rfl

/-- What a masked write leaves in its register: the writable bits under the mask come from the value, the others stay
(10_state.md R20). -/
theorem rfRead_commitValue_same (r : Reg) (v m : Word) (o : Origin) (s : State) :
    rfRead r (commitValue r v m o s) = merge (rfRead r s) v (m &&& writeBits r o) &&& regBits r := by
  unfold commitValue
  cases r with
  | comm => exact (rfRead_commOrigin ..).trans (rfRead_rfWrite_same ..)
  | _ => exact rfRead_rfWrite_same ..

/-- A masked write leaves every other register as it is. -/
theorem rfRead_commitValue_other {r r' : Reg} (h : r' ≠ r) (v m : Word) (o : Origin) (s : State) :
    rfRead r' (commitValue r v m o s) = rfRead r' s := by
  unfold commitValue
  cases r with
  | comm => exact (rfRead_commOrigin ..).trans (rfRead_rfWrite_other h ..)
  | _ => exact rfRead_rfWrite_other h ..

/-- Commits in list order, as a fold. -/
theorem commitWrites_eq_foldl (ws : List PendingWrite) (s : State) :
    commitWrites ws s = ws.foldl (fun t w => commitWrite w t) s := by
  induction ws generalizing s with
  | nil => rfl
  | cons w ws ih => exact ih _

/-- A commit changes no queue slot. -/
theorem commitWrite_queue (w : PendingWrite) (s : State) : (commitWrite w s).queue = s.queue := by
  unfold commitWrite commitValue
  cases w.reg <;> rfl

theorem commitWrites_queue (ws : List PendingWrite) (s : State) : (commitWrites ws s).queue = s.queue := by
  induction ws generalizing s with
  | nil => rfl
  | cons w ws ih => exact (ih _).trans (commitWrite_queue ..)

end Sys2Proof.Machine
end

