-- ==== Sys2Proof/Laws/Decode.lean ====
section
/-! SUPPORT. What the encoder's numbers and the decoder's fields are (30_encoding.md R100 to R121): each field of a
word given as a number, the range of each format's operand bits, and one lemma for each format that the decoder reads
back the encoder's operands. -/

namespace Sys2Proof

/-- A field of the word given as a number. -/
theorem field_toNat (x lo n : Nat) : (field (BitVec.ofNat 64 x) lo n).toNat = x % 2 ^ 64 / 2 ^ lo % 2 ^ n := by
  simp [field, BitVec.extractLsb', Nat.shiftRight_eq_div_pow]

theorem field_eq {x lo n : Nat} {v : BitVec n} (h : x % 2 ^ 64 / 2 ^ lo % 2 ^ n = v.toNat) :
    field (BitVec.ofNat 64 x) lo n = v := by
  apply BitVec.eq_of_toNat_eq
  rw [field_toNat, h]

theorem idx6_eq {x lo : Nat} {v : Fin 64} (h : x % 2 ^ 64 / 2 ^ lo % 2 ^ 6 = v.val) : idx6 (BitVec.ofNat 64 x) lo = v := by
  apply Fin.ext
  exact (field_toNat x lo 6).trans h

theorem idx4_eq {x lo : Nat} {v : Fin 16} (h : x % 2 ^ 64 / 2 ^ lo % 2 ^ 4 = v.val) : idx4 (BitVec.ofNat 64 x) lo = v := by
  apply Fin.ext
  exact (field_toNat x lo 4).trans h

theorem idx3_eq {x lo : Nat} {v : Fin 8} (h : x % 2 ^ 64 / 2 ^ lo % 2 ^ 3 = v.val) : idx3 (BitVec.ofNat 64 x) lo = v := by
  apply Fin.ext
  exact (field_toNat x lo 3).trans h

theorem idx2_eq {x lo : Nat} {v : Fin 4} (h : x % 2 ^ 64 / 2 ^ lo % 2 ^ 2 = v.val) : idx2 (BitVec.ofNat 64 x) lo = v := by
  apply Fin.ext
  exact (field_toNat x lo 2).trans h

theorem flag_eq {x lo : Nat} {v : Bool} (h : x % 2 ^ 64 / 2 ^ lo % 2 ^ 1 = v.toNat) : flag (BitVec.ofNat 64 x) lo = v := by
  unfold flag
  rw [field_eq (v := BitVec.ofBool v) (by rw [h]; cases v <;> rfl)]
  cases v <;> rfl

theorem res_eq {x lo n : Nat} (h : x % 2 ^ 64 / 2 ^ lo % 2 ^ n = 0) : (field (BitVec.ofNat 64 x) lo n == 0) = true := by
  rw [field_eq (v := 0) (by simpa using h)]
  simp

/-- A register number has 9 bits (R120, R121). -/
theorem number_lt (r : RegName) : r.number < 512 := by
  cases r with
  | fprHalf f h => cases h <;> simp only [RegName.number, Bool.toNat_true, Bool.toNat_false] <;> omega
  | _ => simp only [RegName.number]; omega

theorem ofNumber_fprHalf : ∀ f : Fin 64, ∀ h : Bool, RegName.ofNumber (RegName.fprHalf f h).number = some (.fprHalf f h) := by decide

theorem ofNumber_gpr : ∀ g : Fin 16, RegName.ofNumber (RegName.gpr g).number = some (.gpr g) := by decide

theorem ofNumber_an : ∀ g : Fin 8, RegName.ofNumber (RegName.an g).number = some (.an g) := by decide

theorem ofNumber_nn : ∀ g : Fin 8, RegName.ofNumber (RegName.nn g).number = some (.nn g) := by decide

theorem ofNumber_mn : ∀ g : Fin 8, RegName.ofNumber (RegName.mn g).number = some (.mn g) := by decide

/-- The decoder reads every register back from its number (R121). -/
theorem ofNumber_number (r : RegName) : RegName.ofNumber r.number = some r := by
  cases r with
  | fprHalf f h => exact ofNumber_fprHalf f h
  | gpr g => exact ofNumber_gpr g
  | an g => exact ofNumber_an g
  | nn g => exact ofNumber_nn g
  | mn g => exact ofNumber_mn g
  | _ => rfl

/-- A number names the register whose number it is (R121). -/
theorem number_of_fin : ∀ n : Fin 512, (match RegName.ofNumber n.val with | some r => r.number == n.val | none => true) = true := by
  decide +kernel

theorem bool_le (p : Bool) : p.toNat ≤ 1 := by cases p <;> simp

theorem hiOpcode_eq {x k : Nat} (h : x % 2 ^ 64 / 2 ^ 56 % 2 ^ 8 = k) : hiOpcode (BitVec.ofNat 64 x) = k :=
  (field_toNat x 56 8).trans h

theorem loOpcode_eq {x k : Nat} (h : x % 2 ^ 64 / 2 ^ 26 % 2 ^ 6 = k) : loOpcode (BitVec.ofNat 64 x) = k :=
  (field_toNat x 26 6).trans h

theorem ifReserved_ok {b : Bool} {i : Instr} (h : b = true) : ifReserved b i = .ok i := if_pos h

/-- Format H3 reads its operands back (R104). -/
theorem decodeH3_enc {mk : Bool → Fin 8 → Fin 64 → Fin 64 → Fin 64 → Instr} (p : Bool) (cc : Fin 8)
    (fd fs ft : Fin 64) {x op y : Nat}
    (hx : x = op * 2 ^ 56 + encH3 p cc fd fs ft + y) (hy : y < 2 ^ 32) :
    decodeH3 mk (BitVec.ofNat 64 x) = .ok (mk p cc fd fs ft) := by
  have hp := bool_le p
  unfold encH3 at hx
  unfold decodeH3
  rw [flag_eq (v := p) (by omega), idx3_eq (v := cc) (by omega),
    idx6_eq (v := fd) (by omega), idx6_eq (v := fs) (by omega), idx6_eq (v := ft) (by omega)]
  exact ifReserved_ok (res_eq (by omega))

/-- Format H2 reads its operands back (R105). -/
theorem decodeH2_enc {mk : Bool → Fin 8 → Fin 64 → Fin 64 → Instr} (p : Bool) (cc : Fin 8) (fd fs : Fin 64) {x op y : Nat}
    (hx : x = op * 2 ^ 56 + encH2 p cc fd fs + y) (hy : y < 2 ^ 32) :
    decodeH2 mk (BitVec.ofNat 64 x) = .ok (mk p cc fd fs) := by
  have hp := bool_le p
  unfold encH2 at hx
  unfold decodeH2
  rw [flag_eq (v := p) (by omega), idx3_eq (v := cc) (by omega),
    idx6_eq (v := fd) (by omega), idx6_eq (v := fs) (by omega)]
  exact ifReserved_ok (by rw [res_eq (by omega), res_eq (by omega)]; rfl)

/-- Format HC reads its operands back (R106). -/
theorem decodeHC_enc {mk : Fin 8 → Fin 64 → Fin 64 → Instr} (cc : Fin 8) (fs ft : Fin 64) {x op y : Nat}
    (hx : x = op * 2 ^ 56 + encHC cc fs ft + y) (hy : y < 2 ^ 32) (hc : ccEven cc = true) :
    decodeHC mk (BitVec.ofNat 64 x) = .ok (mk cc fs ft) := by
  have hc' : cc.val % 2 = 0 := by simpa [ccEven] using hc
  unfold encHC at hx
  unfold decodeHC
  rw [idx3_eq (v := cc) (by omega), idx6_eq (v := fs) (by omega), idx6_eq (v := ft) (by omega)]
  exact ifReserved_ok (by rw [res_eq (by omega), res_eq (by omega), res_eq (by omega)]; rfl)

theorem encH3_lt (p : Bool) (cc : Fin 8) (fd fs ft : Fin 64) : encH3 p cc fd fs ft < 2 ^ 56 := by
  have := bool_le p
  unfold encH3; omega

theorem encH2_lt (p : Bool) (cc : Fin 8) (fd fs : Fin 64) : encH2 p cc fd fs < 2 ^ 56 := by
  have := bool_le p
  unfold encH2; omega

theorem encHC_lt (cc : Fin 8) (fs ft : Fin 64) : encHC cc fs ft < 2 ^ 56 := by
  unfold encHC; omega

theorem encH3_mod (p : Bool) (cc : Fin 8) (fd fs ft : Fin 64) : encH3 p cc fd fs ft % 2 ^ 32 = 0 := by
  unfold encH3; omega

theorem encH2_mod (p : Bool) (cc : Fin 8) (fd fs : Fin 64) : encH2 p cc fd fs  % 2 ^ 32 = 0 := by
  unfold encH2; omega

theorem encHC_mod (cc : Fin 8) (fs ft : Fin 64) : encHC cc fs ft  % 2 ^ 32 = 0  := by
  unfold encHC; omega

/-- The operand bits of a hi sub-instruction lie in bits 55:32 (R104 to R107). -/
theorem hi_operand (i : Instr) (hi : i.isHi = true) : i.operandBits < 2 ^ 56 ∧ i.operandBits % 2 ^ 32 = 0 ∧ i.opcode < 15 := by
  cases i with
  | hnop => exact ⟨by decide, by decide, by decide⟩
  | fadd p cc fd fs ft => exact ⟨encH3_lt p cc fd fs ft, encH3_mod p cc fd fs ft, Nat.lt_of_sub_eq_succ rfl⟩
  | fmul p cc fd fs ft => exact ⟨encH3_lt p cc fd fs ft, encH3_mod p cc fd fs ft, Nat.lt_of_sub_eq_succ rfl⟩
  | fmadd p cc fd fs ft => exact ⟨encH3_lt p cc fd fs ft, encH3_mod p cc fd fs ft, Nat.lt_of_sub_eq_succ rfl⟩
  | cmadd p cc fd fs ft => exact ⟨encH3_lt p cc fd fs ft, encH3_mod p cc fd fs ft, Nat.lt_of_sub_eq_succ rfl⟩
  | fperm p cc fd fs ft => exact ⟨encH3_lt p cc fd fs ft, encH3_mod p cc fd fs ft, Nat.lt_of_sub_eq_succ rfl⟩
  | fsin p cc fd fs => exact ⟨encH2_lt p cc fd fs, encH2_mod p cc fd fs, Nat.lt_of_sub_eq_succ rfl⟩
  | fcos p cc fd fs => exact ⟨encH2_lt p cc fd fs, encH2_mod p cc fd fs, Nat.lt_of_sub_eq_succ rfl⟩
  | frecip p cc fd fs => exact ⟨encH2_lt p cc fd fs, encH2_mod p cc fd fs, Nat.lt_of_sub_eq_succ rfl⟩
  | flog2 p cc fd fs => exact ⟨encH2_lt p cc fd fs, encH2_mod p cc fd fs, Nat.lt_of_sub_eq_succ rfl⟩
  | fexp2 p cc fd fs => exact ⟨encH2_lt p cc fd fs, encH2_mod p cc fd fs, Nat.lt_of_sub_eq_succ rfl⟩
  | fsqrt p cc fd fs => exact ⟨encH2_lt p cc fd fs, encH2_mod p cc fd fs, Nat.lt_of_sub_eq_succ rfl⟩
  | fcmpeq cc fs ft => exact ⟨encHC_lt cc fs ft, encHC_mod cc fs ft, Nat.lt_of_sub_eq_succ rfl⟩
  | fcmplt cc fs ft => exact ⟨encHC_lt cc fs ft, encHC_mod cc fs ft, Nat.lt_of_sub_eq_succ rfl⟩
  | fcmple cc fs ft => exact ⟨encHC_lt cc fs ft, encHC_mod cc fs ft, Nat.lt_of_sub_eq_succ rfl⟩
  | _ => exact absurd hi Bool.false_ne_true

/-- What the number of a hi sub-instruction is. -/
theorem hi_bits (i : Instr) (hi : i.isHi = true) :
    i.bits % 2 ^ 32 = 0 ∧ i.bits < 2 ^ 64 ∧ i.operandBits < 2 ^ 56 ∧ i.bits = i.opcode * 2 ^ 56 + i.operandBits ∧ i.opcode < 15 := by
  have e : i.bits = i.opcode * 2 ^ 56 + i.operandBits := if_pos hi
  have := hi_operand i hi
  omega

/-- The operand bits of a lo sub-instruction lie in bits 25:0 (R108 to R119). -/
theorem lo_operand (i : Instr) (hi : i.isHi = false) : i.operandBits < 2 ^ 26 ∧ i.opcode < 64 := by
  cases i with
  | ld p cc f n off =>
    have := bool_le p
    simp only [Instr.operandBits, Instr.opcode, encLM]
    omega
  | ldd p cc f n off =>
    have := bool_le p
    simp only [Instr.operandBits, Instr.opcode, encLM]
    omega
  | st p cc f n off =>
    have := bool_le p
    simp only [Instr.operandBits, Instr.opcode, encLM]
    omega
  | std p cc f n off =>
    have := bool_le p
    simp only [Instr.operandBits, Instr.opcode, encLM]
    omega
  | ldm p cc f n =>
    have := bool_le p
    simp only [Instr.operandBits, Instr.opcode, encLP]
    omega
  | lddm p cc f n =>
    have := bool_le p
    simp only [Instr.operandBits, Instr.opcode, encLP]
    omega
  | stm p cc f n =>
    have := bool_le p
    simp only [Instr.operandBits, Instr.opcode, encLP]
    omega
  | stdm p cc f n =>
    have := bool_le p
    simp only [Instr.operandBits, Instr.opcode, encLP]
    omega
  | seti rd u imm =>
    have := number_lt rd
    have := bool_le u
    simp only [Instr.operandBits, Instr.opcode]
    omega
  | move rd rs sec bc =>
    have := number_lt rd
    have := number_lt rs
    have := bool_le bc
    simp only [Instr.operandBits, Instr.opcode]
    omega
  | bcc all cc imm =>
    have := bool_le all
    simp only [Instr.operandBits, Instr.opcode]
    omega
  | lnop  =>
    simp only [Instr.operandBits, Instr.opcode]
    omega
  | aupd n off =>
    simp only [Instr.operandBits, Instr.opcode]
    omega
  | jump a =>
    simp only [Instr.operandBits, Instr.opcode]
    omega
  | call g =>
    simp only [Instr.operandBits, Instr.opcode]
    omega
  | calli a =>
    simp only [Instr.operandBits, Instr.opcode]
    omega
  | ret  =>
    simp only [Instr.operandBits, Instr.opcode]
    omega
  | doLoop g a =>
    simp only [Instr.operandBits, Instr.opcode]
    omega
  | doi n a =>
    simp only [Instr.operandBits, Instr.opcode]
    omega
  | enddo  =>
    simp only [Instr.operandBits, Instr.opcode]
    omega
  | sync  =>
    simp only [Instr.operandBits, Instr.opcode]
    omega
  | stop c =>
    simp only [Instr.operandBits, Instr.opcode]
    omega
  | _ => exact absurd hi (Ne.symm Bool.false_ne_true)

/-- What the number of a lo sub-instruction is. -/
theorem lo_bits (i : Instr) (hi : i.isHi = false) :
    i.bits < 2 ^ 32 ∧ i.operandBits < 2 ^ 26 ∧ i.bits = i.opcode * 2 ^ 26 + i.operandBits ∧ i.opcode < 64 := by
  have e : i.bits = i.opcode * 2 ^ 26 + i.operandBits := if_neg (by rw [hi]; decide)
  have := lo_operand i hi
  omega

/-- Format LM reads its operands back (R108). -/
theorem decodeLM_enc {mk : Bool → Fin 8 → Fin 64 → Fin 8 → BitVec 13 → Instr} (p : Bool)
    (cc : Fin 8) (f : Fin 64) (n : Fin 8) (off : BitVec 13) {x op y : Nat}
    (hx : x = y + (op * 2 ^ 26 + encLM p cc f n off)) (hy : y % 2 ^ 32 = 0) :
    decodeLM mk (BitVec.ofNat 64 x) = .ok (mk p cc f n off) := by
  have hp := bool_le p
  unfold encLM at hx
  unfold decodeLM
  rw [flag_eq (v := p) (by omega), idx3_eq (v := cc) (by omega),
    idx6_eq (v := f) (by omega), idx3_eq (v := n) (by omega), field_eq (v := off) (by omega)]

/-- Format LP reads its operands back (R109). -/
theorem decodeLP_enc {mk : Bool → Fin 8 → Fin 64 → Fin 8 → Instr} (p : Bool) (cc : Fin 8) (f : Fin 64) (n : Fin 8) {x op y : Nat}
    (hx : x = y + (op * 2 ^ 26 + encLP p cc f n)) (hy : y % 2 ^ 32 = 0) :
    decodeLP mk (BitVec.ofNat 64 x) = .ok (mk p cc f n) := by
  have hp := bool_le p
  unfold encLP at hx
  unfold decodeLP
  rw [flag_eq (v := p) (by omega), idx3_eq (v := cc) (by omega),
    idx6_eq (v := f) (by omega), idx3_eq (v := n) (by omega)]
  exact ifReserved_ok (res_eq (by omega))

end Sys2Proof
end

