-- ==== Sys2Proof/Laws/HostInterface.lean ====
section
/-! SUPPORT. What the host's operations can do (60_exceptions.md R380, R385, R386). -/

namespace Sys2Proof.Machine

/-- A reset that is not refused gives the zero state with the image applied (R380). -/
theorem hostReset_ok {im : ResetImage} {s t : State} (h : hostReset im s = .ok t) :
    im.ok s.params = true ∧ t = applyImage im (State.zero s.params) := by
  unfold hostReset at h
  split at h
  · exact ⟨‹_›, by cases h; rfl⟩
  · cases h

/-- With the empty image a reset gives the zero state (70_reset_and_hazards.md R392). -/
theorem hostReset_empty (s : State) : hostReset ResetImage.empty s = .ok (State.zero s.params) := rfl

/-- A bulk write of IRAM that is not refused lies in range and changes IRAM only (R383, R89). -/
theorem iramWrite_ok {ws : List Word} {a : Nat} {s t : State} (h : iramWrite ws a s = .ok t) :
    a + ws.length ≤ s.params.iramWords ∧ t = { s with iram := writeWords s.iram a ws } := by
  unfold iramWrite at h
  split at h
  · exact ⟨of_decide_eq_true ‹_›, by cases h; rfl⟩
  · cases h

/-- Clearing bits that are 0 changes nothing. -/
theorem and_of_reserved {x : BitVec 32} (r m : BitVec 32) (hm : m = ~~~r) (h : x &&& r = 0) : x &&& m = x := by
  subst hm
  ext i hi
  have hb : (x &&& r)[i] = (0 : BitVec 32)[i] := by rw [h]
  clear h
  cases hx : x[i] <;> simp_all

/-- A state of the invariant passes the check of its own document. -/
theorem Persisted.check_saveState {s : State} (h : Inv s) : (saveState s).check s.params = .ok () := by
  have hl : ∀ m ∈ s.lmem.toList, MemoryIn 65536 m := by
    intro m hm
    obtain ⟨i, hi, rfl⟩ := List.getElem_of_mem hm
    have := h.lmem ⟨i, by simpa using hi⟩
    simpa using this
  have hwf : Memory.wf s.iram ∧ ∀ m ∈ s.lmem.toList, Memory.wf m := ⟨h.iram.1, fun m hm => (hl m hm).1⟩
  have hb : (s.iram.all fun c => decide (c.1 < s.params.iramWords)) = true := by
    simpa using h.iram.2
  have hb' : (s.lmem.toList.all fun m => m.all fun c => decide (c.1 < lmemWords)) = true := by
    simp only [List.all_eq_true, decide_eq_true_eq]
    exact fun m hm c hc => (hl m hm).2 c hc
  unfold Persisted.check saveState
  rw [if_neg (not_not_intro hwf)]
  exact if_pos (by rw [hb, hb']; rfl)

/-- Loading what was just saved changes nothing (R386), in a state of the invariant. -/
theorem loadState_saveState {s : State} (h : Inv s) : loadState (saveState s) s = .ok s := by
  have hs : s.status &&& (writeBits .status .host).setWidth 32 = s.status := and_of_reserved statusReserved _ (by decide) h.status
  have hf : (s.fcsr.map fun v => v &&& (writeBits (.fcsr 0) .host).setWidth 32) = s.fcsr := by
    refine Vector.ext fun i hi => ?_
    rw [Vector.getElem_map]
    exact and_of_reserved fcsrReserved _ (by decide) (h.fcsr ⟨i, hi⟩)
  simp only [loadState, Persisted.check_saveState h]
  simp only [saveState, hs, hf]

/-- A debug read of a register other than STATUS is its committed value, whatever is pending (R385, R157). -/
theorem debugRead_register {r : RegName} (hr : r ≠ .status) (hu : upperHalf r = false) (sec : Sec) (s : State) :
    debugRead (.register r sec) s = .register ((rfRead (regOf r sec) s).setWidth 32) := by
  cases r <;> simp_all [debugRead, debugReg]

end Sys2Proof.Machine
end

