-- ==== Sys2Proof/Laws/Moves.lean ====
section
/-! SUPPORT. What the register moves and the loads and stores can do (44_moves.md, 42_memory_ops.md). -/

namespace Sys2Proof.Machine

/-! ## Register moves -/

/-- What the stage-1 handlers of `SETI` and `MOVE` can do (44_moves.md R342, R343). -/
theorem schedTargets_appends (rd : RegName) (v m : Word) (bc : Bool) (sec : Sec) (s : State) :
    Appends 0 s.params.moveDelay (targetWrites rd v m bc sec s) s (schedTargets rd v m bc sec s) := by
  unfold schedTargets targetWrites
  split
  · exact forSections_appends _ _ fun k pre _ => sched_appends ..
  · exact sched_appends ..

theorem execSeti_appends {s : State} (h : s.cur.stage = 1) (rd : RegName) (u : Bool) (imm16 : BitVec 16) :
    Appends 0 s.params.moveDelay (targetWrites rd (setiValue rd u imm16) (setiMask rd u) true 0 s) s
      (execSeti rd u imm16 s) := by
  unfold execSeti inStage1
  rw [if_pos h]
  exact schedTargets_appends ..

theorem execMove_appends {s : State} (h : s.cur.stage = 1) (rd rs : RegName) (sec : Sec) (bc : Bool) :
    Appends 0 s.params.moveDelay
      (targetWrites rd ((moveSource rs sec s).setWidth 64 &&& ones rd) (ones rd) bc sec s) s
      (execMove rd rs sec bc s) := by
  unfold execMove inStage1
  rw [if_pos h]
  exact schedTargets_appends ..

/-! ## Loads -/

theorem loadSection_appends (dbl : Bool) (f : Fin 64) (sec : Sec) (s : State) :
    Appends 0 0 (loadSectionWrites dbl f sec s) s (loadSection dbl f sec s) := by
  unfold loadSection loadSectionWrites
  split
  · cases dbl
    · exact (sched_appends ..).seq (xs := [_]) (ys := []) (.nil ..)
    · exact (sched_appends ..).seq (xs := [_]) (ys := [_]) (sched_appends ..)
  · exact .nil ..

/-- What stage 3 of a load can do (42_memory_ops.md R261). -/
theorem loadStage3_appends (dbl : Bool) (f : Fin 64) (s : State) :
    Appends 0 0 (loadWrites dbl f s) s (forSections (loadSection dbl f) s) :=
  forSections_appends _ _ fun sec pre _ => loadSection_appends dbl f sec (scheduled 0 0 pre s)

/-! ## Stores -/

theorem storeSection_inactive {sec : Sec} {s : State} (h : s.cur.latch.active[sec] = false) (dbl : Bool) :
    storeSection dbl sec s = s := if_neg (by rw [h]; decide)

theorem storeSection_single {sec : Sec} {s : State} (h : s.cur.latch.active[sec] = true) :
    storeSection false sec s = memWrite sec s.cur.latch.ea s.cur.latch.data0[sec] s := if_pos h

theorem storeSection_double {sec : Sec} {s : State} (h : s.cur.latch.active[sec] = true) :
    storeSection true sec s =
      memWrite sec (s.cur.latch.ea + 1) s.cur.latch.data1[sec]
        (memWrite sec s.cur.latch.ea s.cur.latch.data0[sec] s) := if_pos h

/-- A property of states that a store of one section keeps, if a memory write in that section keeps it. -/
theorem storeSection_keeps {P : State → Prop} {sec : Sec} (hw : ∀ a v s, P s → P (memWrite sec a v s)) {s : State}
    (h : P s) (dbl : Bool) : P (storeSection dbl sec s) := by
  cases ha : s.cur.latch.active[sec] with
  | false => rwa [storeSection_inactive ha]
  | true =>
    cases dbl with
    | false => rw [storeSection_single ha]; exact hw _ _ _ h
    | true => rw [storeSection_double ha]; exact hw _ _ _ (hw _ _ _ h)

/-- A property of states that a store keeps, if every memory write keeps it (42_memory_ops.md R261). -/
theorem storeWrite_keeps {P : State → Prop} (hw : ∀ sec a v s, P s → P (memWrite sec a v s)) {s : State} (h : P s)
    (dbl : Bool) : P (storeWrite dbl s) :=
  storeSection_keeps (hw 3) (storeSection_keeps (hw 2) (storeSection_keeps (hw 1) (storeSection_keeps (hw 0) h dbl) dbl)
    dbl) dbl

/-- A store changes nothing but local memory (42_memory_ops.md R261). -/
theorem storeWrite_eq (dbl : Bool) (s : State) : storeWrite dbl s = { s with lmem := (storeWrite dbl s).lmem } :=
  storeWrite_keeps (P := fun t => t = { s with lmem := t.lmem }) (fun sec a v t h => by rw [h]; rfl) rfl dbl

theorem storeWrite_in {s : State} (h : ∀ sec : Sec, MemoryIn 65536 s.lmem[sec]) (dbl : Bool) :
    ∀ k : Sec, MemoryIn 65536 (storeWrite dbl s).lmem[k] :=
  storeWrite_keeps (P := fun t => ∀ k : Sec, MemoryIn 65536 t.lmem[k]) (fun sec a v t h => memWrite_in h sec a v) h dbl

theorem memRead_storeSection {s : State} (h : ∀ sec : Sec, Memory.wf s.lmem[sec]) (dbl : Bool) (sec k : Sec)
    (x : Addr) :
    memRead k x (storeSection dbl sec s) =
      if k = sec then storedWord dbl s.cur.latch k x (memRead k x s) else memRead k x s := by
  have hw : ∀ a v, ∀ k : Sec, Memory.wf (memWrite sec a v s).lmem[k] := fun a v => memWrite_wf h sec a v
  unfold storedWord
  cases ha : s.cur.latch.active[sec] with
  | false =>
    rw [storeSection_inactive ha]
    by_cases hk : k = sec
    · subst hk
      rw [if_pos rfl, ha]
      rfl
    · rw [if_neg hk]
  | true =>
    cases dbl with
    | false =>
      rw [storeSection_single ha, memRead_memWrite h]
      by_cases hk : k = sec
      · subst hk
        simp [ha]
      · simp [hk]
    | true =>
      rw [storeSection_double ha, memRead_memWrite (hw _ _), memRead_memWrite h]
      by_cases hk : k = sec
      · subst hk
        simp [ha]
      · simp [hk]

/-- What a read gives after a store: the stored words at `ea` (and `ea + 1`) of the active sections, and what was there
everywhere else (42_memory_ops.md R261). -/
theorem memRead_storeWrite {s : State} (h : ∀ sec : Sec, Memory.wf s.lmem[sec]) (dbl : Bool) (k : Sec)
    (x : Addr) : memRead k x (storeWrite dbl s) = storedWord dbl s.cur.latch k x (memRead k x s) := by
  have keep : ∀ sec t, (∀ k : Sec, Memory.wf t.lmem[k]) → ∀ k : Sec, Memory.wf (storeSection dbl sec t).lmem[k] :=
    fun sec t ht => storeSection_keeps (P := fun t => ∀ k : Sec, Memory.wf t.lmem[k])
      (fun a v t h => memWrite_wf h sec a v) ht dbl
  have cur : ∀ sec t, (storeSection dbl sec t).cur = t.cur := fun sec t =>
    storeSection_keeps (P := fun u => u.cur = t.cur) (fun a v u h => h) rfl dbl
  have h0 := keep 0 s h
  have h1 := keep 1 _ h0
  have h2 := keep 2 _ h1
  unfold storeWrite
  rw [memRead_storeSection h2, memRead_storeSection h1, memRead_storeSection h0, memRead_storeSection h]
  simp only [cur]
  fin_cases k <;> simp

end Sys2Proof.Machine
end

