-- ==== Sys2Proof/Laws/PerInstr.lean ====
section
/-! SUPPORT. Statements about every sub-instruction as syntax, one lemma for each constructor. -/

namespace Sys2Proof.Laws.OpcodeField

/-- The opcode field of a sub-instruction's word is its opcode, and the opcode field of the other half is that of the
no-operation (30_encoding.md R101, R107, R116). -/
def Statement (i : Instr) : Prop :=
  hiOpcode (encode i) = (if i.isHi then i.opcode else 0) ∧ loOpcode (encode i) = (if i.isHi then 0 else i.opcode)

theorem of_hi (i : Instr) (h : i.isHi = true) : Statement i := by
  obtain ⟨h1, h2, h3, h4, h5⟩ := hi_bits i h
  unfold Statement encode
  rw [if_pos h, if_pos h]
  exact ⟨hiOpcode_eq (by omega), loOpcode_eq (by omega)⟩

theorem of_lo (i : Instr) (h : i.isHi = false) : Statement i := by
  obtain ⟨h1, h2, h3, h4⟩ := lo_bits i h
  unfold Statement encode
  rw [h]
  exact ⟨hiOpcode_eq (by simp; omega), loOpcode_eq (by simp; omega)⟩

theorem hnop : Statement .hnop := of_hi _ rfl
theorem fadd (p : Bool) (cc : Fin 8) (fd fs ft : Fin 64) : Statement (.fadd p cc fd fs ft) := of_hi _ rfl
theorem fmul (p : Bool) (cc : Fin 8) (fd fs ft : Fin 64) : Statement (.fmul p cc fd fs ft) := of_hi _ rfl
theorem fmadd (p : Bool) (cc : Fin 8) (fd fs ft : Fin 64) : Statement (.fmadd p cc fd fs ft) := of_hi _ rfl
theorem cmadd (p : Bool) (cc : Fin 8) (fd fs ft : Fin 64) : Statement (.cmadd p cc fd fs ft) := of_hi _ rfl
theorem fcmpeq (cc : Fin 8) (fs ft : Fin 64) : Statement (.fcmpeq cc fs ft) := of_hi _ rfl
theorem fcmplt (cc : Fin 8) (fs ft : Fin 64) : Statement (.fcmplt cc fs ft) := of_hi _ rfl
theorem fcmple (cc : Fin 8) (fs ft : Fin 64) : Statement (.fcmple cc fs ft) := of_hi _ rfl
theorem fperm (p : Bool) (cc : Fin 8) (fd fs ft : Fin 64) : Statement (.fperm p cc fd fs ft) := of_hi _ rfl
theorem fsin (p : Bool) (cc : Fin 8) (fd fs : Fin 64) : Statement (.fsin p cc fd fs) := of_hi _ rfl
theorem fcos (p : Bool) (cc : Fin 8) (fd fs : Fin 64) : Statement (.fcos p cc fd fs) := of_hi _ rfl
theorem frecip (p : Bool) (cc : Fin 8) (fd fs : Fin 64) : Statement (.frecip p cc fd fs) := of_hi _ rfl
theorem flog2 (p : Bool) (cc : Fin 8) (fd fs : Fin 64) : Statement (.flog2 p cc fd fs) := of_hi _ rfl
theorem fexp2 (p : Bool) (cc : Fin 8) (fd fs : Fin 64) : Statement (.fexp2 p cc fd fs) := of_hi _ rfl
theorem fsqrt (p : Bool) (cc : Fin 8) (fd fs : Fin 64) : Statement (.fsqrt p cc fd fs) := of_hi _ rfl
theorem lnop : Statement .lnop := of_lo _ rfl
theorem ld (p : Bool) (cc : Fin 8) (f : Fin 64) (n : Fin 8) (off13 : BitVec 13) : Statement (.ld p cc f n off13) := of_lo _ rfl
theorem ldd (p : Bool) (cc : Fin 8) (f : Fin 64) (n : Fin 8) (off13 : BitVec 13) : Statement (.ldd p cc f n off13) := of_lo _ rfl
theorem st (p : Bool) (cc : Fin 8) (f : Fin 64) (n : Fin 8) (off13 : BitVec 13) : Statement (.st p cc f n off13) := of_lo _ rfl
theorem std (p : Bool) (cc : Fin 8) (f : Fin 64) (n : Fin 8) (off13 : BitVec 13) : Statement (.std p cc f n off13) := of_lo _ rfl
theorem ldm (p : Bool) (cc : Fin 8) (f : Fin 64) (n : Fin 8) : Statement (.ldm p cc f n) := of_lo _ rfl
theorem lddm (p : Bool) (cc : Fin 8) (f : Fin 64) (n : Fin 8) : Statement (.lddm p cc f n) := of_lo _ rfl
theorem stm (p : Bool) (cc : Fin 8) (f : Fin 64) (n : Fin 8) : Statement (.stm p cc f n) := of_lo _ rfl
theorem stdm (p : Bool) (cc : Fin 8) (f : Fin 64) (n : Fin 8) : Statement (.stdm p cc f n) := of_lo _ rfl
theorem aupd (n : Fin 8) (off13 : BitVec 13) : Statement (.aupd n off13) := of_lo _ rfl
theorem seti (rd : RegName) (u : Bool) (imm16 : BitVec 16) : Statement (.seti rd u imm16) := of_lo _ rfl
theorem move (rd rs : RegName) (sec : Sec) (bc : Bool) : Statement (.move rd rs sec bc) := of_lo _ rfl
theorem jump (imm16 : Addr) : Statement (.jump imm16) := of_lo _ rfl
theorem bcc (all : Bool) (cc : Fin 8) (imm16 : Addr) : Statement (.bcc all cc imm16) := of_lo _ rfl
theorem call (g : Fin 16) : Statement (.call g) := of_lo _ rfl
theorem calli (imm16 : Addr) : Statement (.calli imm16) := of_lo _ rfl
theorem ret : Statement .ret := of_lo _ rfl
theorem doLoop (g : Fin 16) (end16 : Addr) : Statement (.doLoop g end16) := of_lo _ rfl
theorem doi (count10 : BitVec 10) (end16 : Addr) : Statement (.doi count10 end16) := of_lo _ rfl
theorem enddo : Statement .enddo := of_lo _ rfl
theorem sync : Statement .sync := of_lo _ rfl
theorem stop (code16 : BitVec 16) : Statement (.stop code16) := of_lo _ rfl

end Sys2Proof.Laws.OpcodeField
end

