-- ==== Sys2Proof/Laws/Stacks.lean ====
section
/-! SUPPORT. What the loop and call stack operations can do (40_machine.md sections 7 and 8). -/

namespace Sys2Proof.Machine

/-- What `SetSticky` can do (60_exceptions.md R363). -/
theorem setStickyAt_appends (late : Nat) (bit : Word) (s : State) :
    Appends late 0 [coreWrite .status bit bit true s] s (setStickyAt late bit s) := schedAt_appends ..

/-- The state in which a frame is pushed (40_machine.md R200). -/
def pushed (start stop : Addr) (n : BitVec 32) (s : State) : State :=
  { s with
    loopstk := s.loopstk.set s.loopDepth { start := start, stop := stop, count := n }
    loopDepth := s.loopDepth + 1 }

/-- What `LoopPush` can do (40_machine.md R200). -/
theorem loopPush_appends (start stop : Addr) (n : BitVec 32) (s : State) :
    Appends 0 s.params.loopRegDelay (pushMirrors n stop (s.loopDepth + 1) s) (pushed start stop n s)
      (loopPush start stop n s) :=
  (schedAt_appends 0 .lc _ _ _ _ (pushed start stop n s)).seq (xs := [_])
    ((schedAt_appends 0 .la ..).seq (xs := [_]) (ys := [_]) (schedAt_appends 0 .lsp ..))

/-- What `LoopPop` can do (40_machine.md R202). -/
theorem loopPop_appends (late : Nat) (s : State) :
    Appends late s.params.loopRegDelay (popMirrors (frameAt (s.loopDepth - 1) s) (s.loopDepth - 1) s)
      { s with loopDepth := s.loopDepth - 1 } (loopPop late s) :=
  (schedAt_appends late .la _ _ _ _ { s with loopDepth := s.loopDepth - 1 }).seq (xs := [_])
    ((schedAt_appends late .lc ..).seq (xs := [_]) (ys := [_]) (schedAt_appends late .lsp ..))

/-- What an applied call does to the call stack, within its capacity (40_machine.md R193). -/
theorem callPush_appends {s : State} (h : s.callDepth < s.params.callMaxDepth) (ret : Addr) :
    Appends 1 s.params.callRegDelay [coreWrite .psp (BitVec.ofNat 64 (s.callDepth + 1)) 0xFFFFFFFF true s]
      { s with callstk := s.callstk.set s.callDepth ret, callDepth := s.callDepth + 1 } (callPush ret s) := by
  unfold callPush
  rw [if_pos h]
  exact schedAt_appends ..

/-- What an applied call does at full depth (40_machine.md R193). -/
theorem callPush_full {s : State} (h : ¬ s.callDepth < s.params.callMaxDepth) (ret : Addr) :
    Appends 1 0 [coreWrite .status callOvfBit callOvfBit true s] s (callPush ret s) := by
  unfold callPush
  rw [if_neg h]
  exact setStickyAt_appends ..

end Sys2Proof.Machine
end

