-- ==== Sys2Proof/Tests/Slice0.lean ====
section
/-! SUPPORT. Tests. Expected values come from spec/: the vectors V<n> of 95_test_vectors.md, the fields of
opcode_table.json, or a hand calculation from the rule named. Then one witness for each statement with hypotheses. -/

namespace Sys2Proof.Tests

open Sys2Proof.Machine

set_option Elab.async false

/-! ## Helpers -/

/-- The outcome is a next state with this property. -/
def nextAnd (o : Res) (p : State → Bool) : Bool :=
  match o with
  | .next t => p t
  | _ => false

/-- The outcome is this fault. -/
def isFault (o : Res) (r : Fault) : Bool :=
  match o with
  | .fault x => x == r
  | _ => false

theorem next_of {o : Res} {p : State → Bool} (h : nextAnd o p = true) : ∃ t, o = .next t ∧ p t = true := by
  cases o with
  | next t => exact ⟨t, rfl, h⟩
  | fault r => cases h
  | refused r => cases h

theorem fault_of {o : Res} {r : Fault} (h : isFault o r = true) : o = .fault r := by
  cases o with
  | next t => cases h
  | fault x => exact congrArg _ (of_decide_eq_true h)
  | refused x => cases h

/-- A state at the reset values in which stage `k` executes. -/
def at_ (k : Nat) (s : State) : State := stageState k false (Latch.fresh 0) s

/-- A state with `f1`, `f2`, `f3` set in every section, in which stage 1 executes. -/
def lanes (x y z : Word) : State :=
  at_ 1 { State.reset with fpr := Vector.replicate 4 ((((Vector.replicate 64 0).set 1 x).set 2 y).set 3 z) }

/-- The next state of stage 1 gives `v` for `f4` and `fl` for FCSR, in section 3. -/
def gives (i : Instr) (s : State) (v : Word) (fl : Word) : Bool :=
  nextAnd (exec i s) fun t => readFpr 3 4 t == v && readReg (.fcsr 3) t == fl

/-- The state of V34 with its index registers. -/
def permState (ri rs rm : BitVec 32) : State :=
  at_ 1 { State.reset with
    fpr := Vector.ofFn fun t => ((Vector.replicate 64 0).set 1 (BitVec.ofNat 64 ((0x11 + 2 * t.val) * 2 ^ 32 + 0x10 + 2 * t.val))).set 2
      (BitVec.ofNat 64 ((0x21 + 2 * t.val) * 2 ^ 32 + 0x20 + 2 * t.val))
    rind := ri, rstep := rs, rmask := rm }

/-- The first step of the word `w` from reset. -/
def first (w : Nat) : Res := step (State.reset.withFetchWord 64 w)

/-- The working values of a memory sub-instruction with every section active. -/
def latch (ea newAn : Addr) : Latch :=
  { Latch.fresh 0 with
    ea := ea, newAn := newAn, active := Vector.replicate 4 true
    data0 := Vector.replicate 4 0xAB, data1 := Vector.replicate 4 0xCD }

/-- A state in which stage `k` of a memory sub-instruction executes with the working values `latch ea newAn`. -/
def memAt (k : Nat) (ea newAn : Addr) : State :=
  stageState k false (latch ea newAn)
    { State.reset with
      lmem := Vector.replicate 4 [(0, 0x10), (65535, 0x20)], an := Vector.replicate 8 0x17, nn := Vector.replicate 8 1
      mn := Vector.replicate 8 7 }

/-! ## WellFormed: an ill-formed term for each check (30_encoding.md R106, R118, R121) -/

theorem test_ill_fcmpeq_odd : (Instr.fcmpeq 1 0 0).wellFormed = false := by decide
theorem test_ill_fcmplt_odd : (Instr.fcmplt 7 0 0).wellFormed = false := by decide
theorem test_ill_fcmple_odd : (Instr.fcmple 3 0 0).wellFormed = false := by decide
theorem test_ill_seti_pc : (Instr.seti .pc false 1).wellFormed = false := by decide
theorem test_ill_seti_lc : (Instr.seti .lc false 1).wellFormed = false := by decide
theorem test_ill_seti_u_narrow : (Instr.seti .fccr true 1).wellFormed = false := by decide
theorem test_ill_seti_u_an : (Instr.seti (.an 0) true 1).wellFormed = false := by decide
theorem test_ill_move_la : (Instr.move .la (.gpr 0) 0 false).wellFormed = false := by decide
theorem test_ill_move_lsp : (Instr.move .lsp (.gpr 0) 0 false).wellFormed = false := by decide
theorem test_ill_move_psp : (Instr.move .psp (.gpr 0) 0 false).wellFormed = false := by decide

/-! ## Decoding: a word for every constructor, written from the fields of its row -/

/-- V20: NOP. -/
theorem test_decode_hnop_lnop : decodeWord 0x0000000000000000 = .ok (.hnop, .lnop) := by decide +kernel

/-- V20. -/
theorem test_decode_fadd : decodeWord 0x0180304200000000 = .ok (.fadd true 0 3 1 2, .lnop) := by decide +kernel

/-- R104. -/
theorem test_decode_fmul : decodeWord 0x0273F02000000000 = .ok (.fmul false 7 63 0 32, .lnop) := by decide +kernel

/-- R104. -/
theorem test_decode_fmadd : decodeWord 0x03D010BE00000000 = .ok (.fmadd true 5 1 2 62, .lnop) := by decide +kernel

/-- R104. -/
theorem test_decode_cmadd : decodeWord 0x0402086200000000 = .ok (.cmadd false 0 32 33 34, .lnop) := by decide +kernel

/-- R106. -/
theorem test_decode_fcmpeq : decodeWord 0x0560024A00000000 = .ok (.fcmpeq 6 9 10, .lnop) := by decide +kernel

/-- V20. -/
theorem test_decode_fcmplt : decodeWord 0x0600004200000000 = .ok (.fcmplt 0 1 2, .lnop) := by decide +kernel

/-- R106. -/
theorem test_decode_fcmple : decodeWord 0x07400FC000000000 = .ok (.fcmple 4 63 0, .lnop) := by decide +kernel

/-- V20. -/
theorem test_decode_fperm : decodeWord 0x0800304200000000 = .ok (.fperm false 0 3 1 2, .lnop) := by decide +kernel

/-- R105. -/
theorem test_decode_fsin : decodeWord 0x09B0518000000000 = .ok (.fsin true 3 5 6, .lnop) := by decide +kernel

/-- R105. -/
theorem test_decode_fcos : decodeWord 0x0A03F04000000000 = .ok (.fcos false 0 63 1, .lnop) := by decide +kernel

/-- R105. -/
theorem test_decode_frecip : decodeWord 0x0B001FC000000000 = .ok (.frecip false 0 1 63, .lnop) := by decide +kernel

/-- R105. -/
theorem test_decode_flog2 : decodeWord 0x0CF0824000000000 = .ok (.flog2 true 7 8 9, .lnop) := by decide +kernel

/-- R105. -/
theorem test_decode_fexp2 : decodeWord 0x0D01044000000000 = .ok (.fexp2 false 0 16 17, .lnop) := by decide +kernel

/-- V21, its valid hi half. -/
theorem test_decode_fsqrt : decodeWord 0x0E00104000000000 = .ok (.fsqrt false 0 1 1, .lnop) := by decide +kernel

/-- V20, its lo half. -/
theorem test_decode_ld : decodeWord 0x0000000004075FFF = .ok (.hnop, .ld false 0 7 2 0x1FFF) := by decide +kernel

/-- R108. -/
theorem test_decode_ldd : decodeWord 0x000000000A7FE001 = .ok (.hnop, .ldd true 1 63 7 1) := by decide +kernel

/-- R108. -/
theorem test_decode_st : decodeWord 0x000000000C051000 = .ok (.hnop, .st false 0 5 0 0x1000) := by decide +kernel

/-- R108. -/
theorem test_decode_std : decodeWord 0x0000000013E08FFF = .ok (.hnop, .std true 7 32 4 0xFFF) := by decide +kernel

/-- R109. -/
theorem test_decode_ldm : decodeWord 0x0000000014010000 = .ok (.hnop, .ldm false 0 1 0) := by decide +kernel

/-- R109. -/
theorem test_decode_lddm : decodeWord 0x000000001ABEE000 = .ok (.hnop, .lddm true 2 62 7) := by decide +kernel

/-- R109. -/
theorem test_decode_stm : decodeWord 0x000000001C032000 = .ok (.hnop, .stm false 0 3 1) := by decide +kernel

/-- R109. -/
theorem test_decode_stdm : decodeWord 0x0000000023A1A000 = .ok (.hnop, .stdm true 6 33 5) := by decide +kernel

/-- R110. -/
theorem test_decode_aupd : decodeWord 0x0000000024007FFE = .ok (.hnop, .aupd 3 0x1FFE) := by decide +kernel

/-- V20. -/
theorem test_decode_seti : decodeWord 0x00000000282D3F80 = .ok (.hnop, .seti (.fprHalf 11 false) true 0x3F80) := by decide +kernel

/-- R119, R121. -/
theorem test_decode_move : decodeWord 0x000000002D66B4E0 = .ok (.hnop, .move .commLo .commHi 3 true) := by decide +kernel

/-- R111. -/
theorem test_decode_jump : decodeWord 0x000000004000FFFF = .ok (.hnop, .jump 0xFFFF) := by decide +kernel

/-- V20. -/
theorem test_decode_bcc : decodeWord 0x0000000046000010 = .ok (.hnop, .bcc true 0 0x10) := by decide +kernel

/-- V20. -/
theorem test_decode_call : decodeWord 0x0000000048050000 = .ok (.hnop, .call 5) := by decide +kernel

/-- R111. -/
theorem test_decode_calli : decodeWord 0x000000004C008001 = .ok (.hnop, .calli 0x8001) := by decide +kernel

/-- R116. -/
theorem test_decode_ret : decodeWord 0x0000000050000000 = .ok (.hnop, .ret) := by decide +kernel

/-- V20. -/
theorem test_decode_doLoop : decodeWord 0x0000000054010003 = .ok (.hnop, .doLoop 1 3) := by decide +kernel

/-- R115. -/
theorem test_decode_doi : decodeWord 0x000000005BFF0012 = .ok (.hnop, .doi 0x3FF 0x0012) := by decide +kernel

/-- R116. -/
theorem test_decode_enddo : decodeWord 0x000000005C000000 = .ok (.hnop, .enddo) := by decide +kernel

/-- R116. -/
theorem test_decode_sync : decodeWord 0x0000000060000000 = .ok (.hnop, .sync) := by decide +kernel

/-- V20. -/
theorem test_decode_stop : decodeWord 0x0000000064000007 = .ok (.hnop, .stop 7) := by decide +kernel

/-! ## Invalid words (V21) -/

theorem test_invalid_hi_opcode : decodeWord 0x0F00000000000000 = .error .unassignedOpcode := by decide +kernel
theorem test_invalid_lo_opcode : decodeWord 0x0000000030000000 = .error .unassignedOpcode := by decide +kernel
theorem test_invalid_lnop_bit : decodeWord 0x0000000000000001 = .error .reservedBit := by decide +kernel
theorem test_invalid_odd_cc : decodeWord 0x0510000000000000 = .error .reservedBit := by decide +kernel
theorem test_invalid_cmp_predicate : decodeWord 0x0580000000000000 = .error .reservedBit := by decide +kernel
theorem test_invalid_lo_of_pair : decodeWord 0x0E00104000000001 = .error .reservedBit := by decide +kernel
theorem test_invalid_aupd_bit : decodeWord 0x0000000024010000 = .error .reservedBit := by decide +kernel
theorem test_invalid_ldm_bit : decodeWord 0x0000000014010001 = .error .reservedBit := by decide +kernel
theorem test_invalid_seti_pc : decodeWord 0x0000000029600001 = .error .badRegister := by decide +kernel

/-! ## The hi sub-instructions (V1, V30 to V34; LAT 1, read through the bypass) -/

theorem test_fadd : gives (.fadd false 0 4 1 2) (lanes 0x3F8000003F800000 0x4000000040000000 0) 0x4040000040400000 0 = true := by
  decide +kernel
theorem test_fadd_invalid :
    gives (.fadd false 0 4 1 2) (lanes 0x7F8000003F800000 0xFF8000003F800000 0) 0x7FC0000040000000 0x10 = true := by
  decide +kernel
theorem test_fmul_overflow :
    gives (.fmul false 0 4 1 2) (lanes 0x7F61B1E63FC00000 0x4120000040000000 0) 0x7F80000040400000 0x05 = true := by
  decide +kernel
theorem test_fmadd : nextAnd (exec (.fmadd false 0 3 1 2) (lanes 0x4000000040000000 0x4040000040400000 0x3F8000003F800000))
    (fun t => readFpr 0 3 t == 0x40E0000040E00000) = true := by decide +kernel
theorem test_cmadd : nextAnd (exec (.cmadd false 0 3 1 2) (lanes 0x400000003F800000 0x4080000040400000 0x3F8000003F800000))
    (fun t => readFpr 0 3 t == 0x41300000C0800000 && readReg (.fcsr 0) t == 0) = true := by decide +kernel
theorem test_fcmpeq : nextAnd (exec (.fcmpeq 4 1 2) (lanes 0x3F80000000000000 0x3F80000080000000 0))
    (fun t => readReg (.fccr 2) t == 0x30) = true := by decide +kernel
theorem test_fcmplt_nan : nextAnd (exec (.fcmplt 0 1 2) (lanes 0x7FC00000BF800000 0 0))
    (fun t => readReg (.fccr 1) t == 1 && readReg (.fcsr 1) t == 0x10) = true := by decide +kernel
theorem test_fcmple : nextAnd (exec (.fcmple 6 1 2) (lanes 0x000000013F800000 0x000000023F800000 0))
    (fun t => readReg (.fccr 0) t == 0xC0 && readReg (.fcsr 0) t == 0x20) = true := by decide +kernel
theorem test_fperm_reverse : nextAnd (exec (.fperm false 0 3 1 2) (permState 7 0xFFFFFFFF 15))
    (fun t => readFpr 0 3 t == 0x0000001600000017 && readFpr 3 3 t == 0x0000001000000011) = true := by decide +kernel
theorem test_fperm_second : nextAnd (exec (.fperm false 0 3 1 2) (permState 8 1 15))
    (fun t => readFpr 1 3 t == 0x0000002300000022) = true := by decide +kernel
theorem test_fsin : gives (.fsin false 0 4 1) (lanes 0x800000007F800000 0 0) 0x800000007FC00000 0x10 = true := by
  decide +kernel
theorem test_fcos : gives (.fcos false 0 4 1) (lanes 0x8000000000000000 0 0) 0x3F8000003F800000 0 = true := by
  decide +kernel
theorem test_frecip : gives (.frecip false 0 4 1) (lanes 0x8000000040400000 0 0) 0xFF8000003EAAAAAB 0x09 = true := by
  decide +kernel
theorem test_flog2 : gives (.flog2 false 0 4 1) (lanes 0x0000000041000000 0 0) 0xFF80000040400000 0x08 = true := by
  decide +kernel
theorem test_fexp2 : gives (.fexp2 false 0 4 1) (lanes 0xFF80000040400000 0 0) 0x0000000041000000 0 = true := by
  decide +kernel
theorem test_fsqrt : gives (.fsqrt false 0 4 1) (lanes 0x4000000080000000 0 0) 0x3FB504F380000000 0x01 = true := by
  decide +kernel

/-- A predicate bit that is clear: the section writes nothing (40_machine.md R170). -/
theorem test_predicate_clear : nextAnd (exec (.fadd true 2 4 1 2) (lanes 0x3F8000003F800000 0x4000000040000000 0))
    (fun t => readFpr 3 4 t == 0) = true := by decide +kernel

/-! ## The memory sub-instructions (V35a: `AN` 0x17, `NN` 1, `MN` 7) -/

/-- Stage 1: 0x17 - 1. -/
theorem test_ld_address : nextAnd (exec (.ld false 0 5 1 0x1FFF) (memAt 1 0 0)) (fun t => t.cur.latch.ea == 0x16) = true := by
  decide +kernel
/-- Stage 3: both registers of the pair f63, f0. -/
theorem test_ldd_pair : nextAnd (exec (.ldd false 0 63 2 0) (memAt 3 0 0))
    (fun t => readFpr 2 63 t == 0xAB && readFpr 2 0 t == 0xCD) = true := by decide +kernel
/-- Stage 1: (0x17 AND NOT 7) OR (0x18 AND 7). -/
theorem test_ldm_address : nextAnd (exec (.ldm false 0 6 3) (memAt 1 0 0))
    (fun t => t.cur.latch.ea == 0x17 && t.cur.latch.newAn == 0x10) = true := by decide +kernel
/-- Stage 2: `ea` 0xFFFF and, wrapping, 0; the address register is updated. -/
theorem test_lddm_memory : nextAnd (exec (.lddm false 0 6 3) (memAt 2 0xFFFF 0x10))
    (fun t => t.cur.latch.data0[1] == 0x20 && t.cur.latch.data1[1] == 0x10 && readAn 3 t == 0x10) = true := by
  decide +kernel
theorem test_st_memory : nextAnd (exec (.st false 0 5 0 0) (memAt 2 3 0))
    (fun t => memRead 3 3 t == 0xAB && memRead 3 4 t == 0 && memRead 3 0xFFFF t == 0x20) = true := by decide +kernel
theorem test_std_memory : nextAnd (exec (.std false 0 5 0 0) (memAt 2 0xFFFF 0))
    (fun t => memRead 0 0xFFFF t == 0xAB && memRead 0 0 t == 0xCD) = true := by decide +kernel
/-- A store of 0 unlists the word, and the stored word reads 0. -/
theorem test_stm_zero : nextAnd (exec (.stm false 0 5 4)
      (stageState 2 false { latch 0 0x18 with data0 := Vector.replicate 4 0 } (memAt 2 0 0)))
    (fun t => t.lmem[2] == [(65535, 0x20)] && readAn 4 t == 0x18) = true := by decide +kernel
theorem test_stdm_latches : nextAnd (exec (.stdm false 0 63 4)
      (at_ 1 { State.reset with fpr := Vector.replicate 4 (((Vector.replicate 64 0).set 63 7).set 0 9) }))
    (fun t => t.cur.latch.data0[1] == 7 && t.cur.latch.data1[1] == 9) = true := by decide +kernel
/-- V35a, word 4: 0 - 2 with `MN` 0. -/
theorem test_aupd : nextAnd (exec (.aupd 1 0x1FFE) (at_ 1 State.reset)) (fun t => t.cur.latch.newAn == 0xFFFE) = true := by
  decide +kernel
theorem test_aupd_write : nextAnd (exec (.aupd 1 0x1FFE) (memAt 2 0 0xFFFE)) (fun t => readAn 1 t == 0xFFFE) = true := by
  decide +kernel

/-! ## Moves and control, one step from reset (V36 to V45) -/

theorem test_nop : nextAnd (first 0) (fun t => t.pc == 1 && t.cycle == 1) = true := by decide +kernel
theorem test_seti : nextAnd (first 0x29020001) (fun t => t.gpr[1] == 1) = true := by decide +kernel
theorem test_seti_fccr : nextAnd (first 0x295001FF) (fun t => t.fccr[0] == 0xFF && t.fccr[3] == 0xFF) = true := by
  decide +kernel
theorem test_move_status : nextAnd (first 0x2D06B100) (fun t => t.gpr[3] == 3) = true := by decide +kernel
theorem test_move_half : nextAnd (exec (.move (.gpr 1) (.fprHalf 3 true) 2 false)
      (at_ 1 { State.reset with fpr := State.reset.fpr.set 2 ((Vector.replicate 64 0).set 3 0x3F80000040000000) }))
    (fun t => readGpr 1 t == 0x3F800000) = true := by decide +kernel
theorem test_jump : nextAnd (first 0x40000006) (fun t => t.xferPending == some { kind := .jump, target := 6 } && t.pc == 1) = true := by
  decide +kernel
theorem test_bcc_not_taken : nextAnd (first 0x44000006) (fun t => t.xferPending == none) = true := by decide +kernel
theorem test_bcc_any : nextAnd (exec (.bcc false 1 6) (at_ 1 { State.reset with fccr := #v[0, 0, 2, 0] }))
    (fun t => t.xferReq == some { kind := .jump, target := 6 }) = true := by decide +kernel
theorem test_call : nextAnd (exec (.call 5) (at_ 1 { State.reset with gpr := State.reset.gpr.set 5 0x70020 }))
    (fun t => t.xferReq == some { kind := .call, target := 0x20 }) = true := by decide +kernel
theorem test_calli : nextAnd (first 0x4C000004) (fun t => t.xferPending == some { kind := .call, target := 4 } && t.callDepth == 0) = true := by
  decide +kernel
theorem test_ret : nextAnd (first 0x50000000) (fun t => t.xferPending == some { kind := .ret, target := 0 }) = true := by
  decide +kernel
theorem test_do_zero_trip : nextAnd (first 0x54010003)
    (fun t => t.annulNext && t.xferPending == some { kind := .jump, target := 4 } && t.loopDepth == 0) = true := by decide +kernel
theorem test_doi : nextAnd (first 0x58030002) (fun t => t.loopDepth == 1 && t.lc == 3 && t.la == 2 && t.lsp == 1 && t.pc == 1) = true := by
  decide +kernel
theorem test_doi_short_body : isFault (first 0x58030001) .loopBodyTooShort = true := by decide +kernel
theorem test_enddo_empty : nextAnd (first 0x5C000000) (fun t => statusValue t.status t == 0x23) = true := by decide +kernel
theorem test_sync : nextAnd (first 0x60000000) (fun t => t.drain == { kind := .sync, count := 7 } && t.pc == 1) = true := by
  decide +kernel
theorem test_stop : nextAnd (first 0x64000005) (fun t => t.stopcode == 5 && statusValue t.status t == 7) = true := by
  decide +kernel

/-! ## Witnesses: concrete states and operands that meet the hypotheses of each statement -/

/-- Room in every slot of the reference configuration. -/
theorem room {s : State} (h : s.params.maxSlotWrites = none) (late d k : Nat) : RoomFor late d k s := by
  intro n hn
  rw [h] at hn
  cases hn

theorem invalid_of {w : Word} {e : DecodeError} (h : decodeWord w = .error e) : ∀ pair, decodeWord w ≠ .ok pair := by
  intro pair hp
  rw [h] at hp
  cases hp

theorem replicate_at {α : Type} (a : α) (k : Sec) : (Vector.replicate 4 a)[k] = a := by simp

/-- A state with empty pipelines, queue, FIFO and local memory that meets the invariant. -/
theorem inv_of {s : State} (h1 : s.params.ok = true) (h2 : s.lmem = Vector.replicate 4 [])
    (h3 : (s.loopstk.length = s.params.loopMaxDepth ∧ s.loopDepth ≤ s.params.loopMaxDepth) ∧
      s.callstk.length = s.params.callMaxDepth ∧ s.callDepth ≤ s.params.callMaxDepth)
    (h4 : s.queue = List.replicate s.params.queueDepth [])
    (h5 : ((s.drain.kind = .none ↔ s.drain.count = 0) ∧ s.drain.count ≤ drainCycles) ∧ (s.popPending = true → 0 < s.loopDepth))
    (h6 : s.fault = none ∧ s.xferReq = none ∧ s.cur = StageCtx.idle) (h7 : MemoryIn s.params.iramWords s.iram)
    (h8 : s.status &&& statusReserved = 0) (h9 : s.fcsr = Vector.replicate 4 0) (h10 : s.fifo = [])
    (h11 : s.calpipe = [] ∧ s.lmempipe = []) : Inv s := by
  have core : CoreInv s :=
    { params := h1
      lmem := fun sec => by
        rw [h2]
        rw [replicate_at]
        exact ⟨⟨List.Pairwise.nil, by simp⟩, by simp⟩
      loops := h3.1
      calls := h3.2
      queueLength := by rw [h4, List.length_replicate]
      slotBound := fun sl hsl n hn => by
        rw [h4] at hsl
        rw [List.eq_of_mem_replicate hsl]
        simp
      coreWrites := fun sl hsl w hw => by
        rw [h4] at hsl
        rw [List.eq_of_mem_replicate hsl] at hw
        cases hw
      drain := h5.1
      pop := h5.2 }
  exact
    { toCoreInv := core
      noFault := h6.1
      noRequest := h6.2.1
      cur := h6.2.2
      iram := h7
      status := h8
      fcsr := fun sec => by rw [h9, replicate_at]; rfl
      fifo := by rw [h10]; exact ⟨by simp, fun a w h => by cases h⟩
      cal := by rw [h11.1]; exact ⟨List.Pairwise.nil, fun e he => by cases he⟩
      calOps := by rw [h11.1]; exact fun e he => by cases he
      lmemStaged := by rw [h11.2]; exact ⟨List.Pairwise.nil, fun e he => by cases he⟩
      lmemOps := by rw [h11.2]; exact fun e he => by cases he }

/-- The state that fetches `w` first. -/
def fetching (w : Nat) : State := State.reset.withFetchWord 64 w

/-- A running state at the end of IRAM. -/
def runningAtEnd : State := { State.reset with status := 1, pc := 1024 }

/-- A draining state in the last and in the first step of its drain. -/
def drainingAt (kind : DrainKind) (n : Nat) : State :=
  { State.reset with status := 1, drain := { kind := kind, count := n } }

theorem fetching_inv_stop : Inv (fetching 0x64000007) :=
  inv_of (by decide) rfl (by decide) rfl (by decide) ⟨rfl, rfl, rfl⟩ ⟨by decide, by decide⟩ (by decide) rfl rfl ⟨rfl, rfl⟩

theorem fetching_inv_seti : Inv (fetching 0x291EBEEF) :=
  inv_of (by decide) rfl (by decide) rfl (by decide) ⟨rfl, rfl, rfl⟩ ⟨by decide, by decide⟩ (by decide) rfl rfl ⟨rfl, rfl⟩

theorem drainingAt_inv : Inv (drainingAt .stop 1) ∧ Inv (drainingAt .sync 7) :=
  ⟨inv_of (by decide) rfl (by decide) rfl (by decide) ⟨rfl, rfl, rfl⟩ ⟨by decide, by decide⟩ (by decide) rfl rfl ⟨rfl, rfl⟩,
   inv_of (by decide) rfl (by decide) rfl (by decide) ⟨rfl, rfl, rfl⟩ ⟨by decide, by decide⟩ (by decide) rfl rfl ⟨rfl, rfl⟩⟩

theorem runningAtEnd_inv : Inv runningAtEnd :=
  inv_of (by decide) rfl (by decide) rfl (by decide) ⟨rfl, rfl, rfl⟩ ⟨by decide, by decide⟩ (by decide) rfl rfl ⟨rfl, rfl⟩

theorem fetches_stop : Fetches .hnop (.stop 7) (fetching 0x64000007) :=
  ⟨by decide, rfl, by decide, by decide, by decide +kernel⟩

theorem fetches_seti : Fetches .hnop (.seti (.gpr 15) false 0xBEEF) (fetching 0x291EBEEF) :=
  ⟨by decide, rfl, by decide, by decide, by decide +kernel⟩

/-- The last address of IRAM, and a word with both halves in use. -/
theorem fetches_last : Fetches (.fmul true 2 4 5 6) (.ld false 0 7 2 0x1FFF)
    ({ State.reset with pc := 1023 }.withFetchWord 64 0x02A0414604075FFF) :=
  ⟨by decide, rfl, by decide, by decide, by decide +kernel⟩

theorem test_witness_DecodeOfEncodedWord :
    (Instr.fcmpeq 6 63 63).isHi = true ∧ (Instr.seti (.gpr 15) true 0xFFFF).isHi = false ∧
      (Instr.fcmpeq 6 63 63).wellFormed = true ∧ (Instr.seti (.gpr 15) true 0xFFFF).wellFormed = true := by decide

theorem test_witness_DecodedWordIsItsEncoding :
    decodeWord 0x02A0414604075FFF = .ok (.fmul true 2 4 5 6, .ld false 0 7 2 0x1FFF) := by decide +kernel

theorem test_witness_UnassignedOpcodesAreInvalid :
    hiOpcode 0x0F00000000000000 = 0x0F ∧ hiOpcode 0xFF00000000000000 = 0xFF ∧ loOpcode 0x30000000 = 0x0C ∧
      loOpcode 0x3C000000 = 0x0F ∧ loOpcode 0x68000000 = 0x1A ∧ loOpcode 0xFC000000 = 0x3F := by decide +kernel

theorem test_witness_InvalidWordFaultsWhenIssued_running :
    let s := fetching 0x0F00000000000000
    s.params.ok = true ∧ s.fault = none ∧ modeOf s = .running ∧ s.pc.toNat < s.params.iramWords ∧
      ∀ pair, decodeWord (Memory.read s.iram s.pc.toNat) ≠ .ok pair :=
  ⟨by decide, rfl, by decide, by decide, invalid_of (e := .unassignedOpcode) (by decide +kernel)⟩

theorem test_witness_InvalidWordFaultsWhenIssued_idle :
    let s : State := { State.reset with fifo := [.exec 0x0580000000000000] }
    s.params.ok = true ∧ s.fault = none ∧ modeOf s = .idle ∧ isLoopControl 0x0580000000000000 = false ∧
      ∀ pair, decodeWord 0x0580000000000000 ≠ .ok pair :=
  ⟨by decide, rfl, by decide, by decide +kernel, invalid_of (e := .reservedBit) (by decide +kernel)⟩

theorem test_witness_StepRunsDecodedWord : Fetches (.fmul true 2 4 5 6) (.ld false 0 7 2 0x1FFF)
    ({ State.reset with pc := 1023 }.withFetchWord 64 0x02A0414604075FFF) := fetches_last

theorem test_witness_StepExecutesBothHalves :
    Fetches .hnop (.stop 7) (fetching 0x64000007) ∧ (fetching 0x64000007).calpipe = [] ∧
      (fetching 0x64000007).lmempipe = [] ∧ (fetching 0x64000007).annulNext = false := ⟨fetches_stop, rfl, rfl, rfl⟩

theorem test_witness_AnnulledWordExecutesNoStage :
    let s : State := { fetching 0x64000007 with annulNext := true }
    let c (stage : Nat) : CalEntry := { op := .fadd true 7 63 0 0, ticket := 0, stage := stage, annulled := true }
    let l (stage : Nat) : LmemEntry :=
      { op := .ldm false 0 63 7, ticket := 0, stage := stage, annulled := true, latch := Latch.fresh 5 }
    (Fetches .hnop (.stop 7) s ∧ s.calpipe = [] ∧ s.lmempipe = [] ∧ s.annulNext = true) ∧
      (c 1).annulled = true ∧ (c 7).annulled = true ∧ (l 1).annulled = true ∧ (l 2).annulled = true :=
  ⟨⟨⟨by decide, rfl, by decide, by decide, by decide +kernel⟩, rfl, rfl, rfl⟩, rfl, rfl, rfl, rfl⟩

theorem test_witness_FaultedStateTakesNoStep :
    (fetching 0x58030001).fault = none ∧ step (fetching 0x58030001) = .fault .loopBodyTooShort ∧
      (recordFault .pcConflict State.reset).fault = some .pcConflict :=
  ⟨rfl, fault_of (by decide +kernel), rfl⟩

theorem test_witness_IllFormedParametersRefused :
    let s := State.zero { Params.reference with queueDepth := 7 }
    s.fault = none ∧ s.params.ok = false := by decide

theorem test_witness_ResetIsIdleAndTicks :
    ({ Params.reference with iramWords := 65536, queueDepth := 8, maxSlotWrites := some 1, moveDelay := 7 } : Params).ok =
      true := by decide

theorem test_witness_StepKeepsInvariant : Inv (fetching 0x64000007) ∧ ∃ t, step (fetching 0x64000007) = .next t ∧ true = true :=
  ⟨fetching_inv_stop, next_of (p := fun _ => true) (by decide +kernel)⟩

theorem test_witness_OnlyProgramFaults :
    Inv (drainingAt .stop 1) ∧ (drainingAt .stop 1).params.maxSlotWrites = none ∧
      (drainingAt .stop 1).drain.kind ≠ .none := ⟨drainingAt_inv.1, rfl, by decide⟩

theorem test_witness_DrainStep_last :
    Inv (drainingAt .stop 1) ∧ (drainingAt .stop 1).drain.kind ≠ .none ∧
      ∃ t, step (drainingAt .stop 1) = .next t ∧ (t.drain.kind == .none && !running t) = true :=
  ⟨drainingAt_inv.1, by decide, next_of (by decide +kernel)⟩

theorem test_witness_DrainStep_first :
    Inv (drainingAt .sync 7) ∧ (drainingAt .sync 7).drain.kind ≠ .none ∧
      ∃ t, step (drainingAt .sync 7) = .next t ∧ (t.drain.count == 6 && running t) = true :=
  ⟨drainingAt_inv.2, by decide, next_of (by decide +kernel)⟩

theorem test_witness_RunOffEndClearsRun :
    Inv runningAtEnd ∧ modeOf runningAtEnd = .running ∧ runningAtEnd.params.iramWords ≤ runningAtEnd.pc.toNat ∧
      runningAtEnd.xferPending = none ∧ ∃ t, step runningAtEnd = .next t ∧ (!running t) = true :=
  ⟨runningAtEnd_inv, by decide, by decide, rfl, next_of (by decide +kernel)⟩

theorem test_witness_PreloadStepWritesIramOnly :
    let s : State := { State.reset with fifo := [.preload 1023 5] }
    s.params.ok = true ∧ s.fault = none ∧ modeOf s = .idle ∧ s.fifo = .preload 1023 5 :: [] ∧ Memory.wf s.iram :=
  ⟨by decide, rfl, by decide, rfl, by decide⟩

/-- V47, and the other two kinds. -/
theorem test_witness_FifoLoopControlFaults :
    let s : State := { State.reset with fifo := [.exec 0x58020006] }
    (s.params.ok = true ∧ s.fault = none ∧ modeOf s = .idle ∧ s.fifo = .exec 0x58020006 :: []) ∧
      decodeLo 0x58020006 = .ok (.doi 2 6) ∧ decodeLo 0x54010003 = .ok (.doLoop 1 3) ∧ decodeLo 0x5C000000 = .ok .enddo :=
  ⟨⟨by decide, rfl, by decide, rfl⟩, by decide +kernel, by decide +kernel, by decide +kernel⟩

theorem test_witness_StepCountsCyclesAndKeepsIram :
    (∃ t, step State.reset = .next t ∧ (t.cycle == 1) = true) ∧
      ∃ t, step { State.reset with fifo := [.preload 1023 5] } = .next t ∧ (t.iram == [(1023, 5)] && t.cycle == 0) = true :=
  ⟨next_of (by decide +kernel), next_of (by decide +kernel)⟩

theorem test_witness_ExecKeepsCommittedState : ∃ t, exec (.stop 7) (at_ 1 State.reset) = .next t ∧ true = true :=
  next_of (p := fun _ => true) (by decide +kernel)

/-- The room is exact: a slot of 12 writes takes 4 sections of a result and two flag writes each. -/
theorem test_witness_ThreeOperandArithmetic :
    let s : State := { lanes 0x7F8000003F800000 0xFF8000003F800000 0 with params := { Params.reference with maxSlotWrites := some 12 } }
    s.cur.stage = 1 ∧ RoomFor 0 s.params.lat.fadd (hiWrites .fadd false 0 4 1 2 s).length s :=
  ⟨rfl, fun n hn => by cases hn; decide +kernel⟩

theorem test_witness_UnaryArithmetic (op : ArithOp) :
    (lanes 0 0 0).cur.stage = 1 ∧
      RoomFor 0 1 (hiWrites2 op true 0 4 1 (lanes 0 0 0)).length (lanes 0 0 0) := ⟨rfl, room rfl _ _ _⟩

theorem test_witness_Compares (op : CmpOp) :
    (lanes 0 0 0).cur.stage = 1 ∧ RoomFor 0 1 (cmpWrites op 6 1 2 (lanes 0 0 0)).length (lanes 0 0 0) :=
  ⟨rfl, room rfl _ _ _⟩

theorem test_witness_Permute :
    let s : State := { permState 7 1 15 with params := { Params.reference with maxSlotWrites := some 4 } }
    s.cur.stage = 1 ∧ RoomFor 0 s.params.lat.fperm (permWrites false 0 3 1 2 s).length s :=
  ⟨rfl, fun n hn => by cases hn; decide +kernel⟩

/-- Every kind of R164 and R166 at the edges of the stages it acts in. -/
theorem test_witness_OtherStagesDoNothing :
    let idle (i : Instr) (stage : Nat) : Prop := actsIn i (at_ stage State.reset).cur.stage = false
    (idle (.fadd false 0 0 0 0) 0 ∧ idle (.fadd false 0 0 0 0) 2 ∧ idle (.fadd false 0 0 0 0) 8) ∧
      (idle (.ld false 0 0 0 0) 0 ∧ idle (.ld false 0 0 0 0) 4) ∧
      (idle (.stdm true 7 63 7) 0 ∧ idle (.stdm true 7 63 7) 3) ∧ (idle (.aupd 7 1) 0 ∧ idle (.aupd 7 1) 3) ∧
      (idle (.seti (.gpr 1) false 5) 0 ∧ idle (.seti (.gpr 1) false 5) 2 ∧ idle (.seti (.gpr 1) false 5) 3) ∧
      (idle .sync 1 ∧ idle .sync 3) ∧ idle (.stop 7) 2 ∧ idle (.stop 7) 3 := by decide

theorem test_witness_LoadAddressStage : (memAt 1 0 0).cur.stage = 1 := rfl

theorem test_witness_StoreAddressStage : (memAt 1 0 0).cur.stage = 1 := rfl

theorem test_witness_LoadMemoryStage : (memAt 2 0xFFFF 0).cur.stage = 2 ∧ RoomFor 0 0 1 (memAt 2 0xFFFF 0) :=
  ⟨rfl, room rfl _ _ _⟩

theorem test_witness_LoadRegisterStage :
    (memAt 3 0 0).cur.stage = 3 ∧ RoomFor 0 0 (loadWrites false 63 (memAt 3 0 0)).length (memAt 3 0 0) ∧
      RoomFor 0 0 (loadWrites true 63 (memAt 3 0 0)).length (memAt 3 0 0) := ⟨rfl, room rfl _ _ _, room rfl _ _ _⟩

theorem test_witness_StoreMemoryStage :
    (memAt 2 0xFFFF 0).cur.stage = 2 ∧ (∀ k : Sec, Memory.wf (memAt 2 0xFFFF 0).lmem[k]) ∧
      RoomFor 0 0 1 (memAt 2 0xFFFF 0) := ⟨rfl, by decide +kernel, room rfl _ _ _⟩

theorem test_witness_AddressUpdate :
    (memAt 1 0 0).cur.stage = 1 ∧ (memAt 2 0 5).cur.stage = 2 ∧ RoomFor 0 0 1 (memAt 2 0 5) :=
  ⟨rfl, rfl, room rfl _ _ _⟩

theorem test_witness_ReferenceAddressModify : (7 : Addr) ≠ 0 ∧ (15 : Nat) < 16 := by decide

theorem test_witness_SetImmediate :
    (at_ 1 State.reset).cur.stage = 1 ∧
      RoomFor 0 (at_ 1 State.reset).params.moveDelay
        (targetWrites .fccr (setiValue .fccr false 0x1FF) (setiMask .fccr false) true 0 (at_ 1 State.reset)).length
        (at_ 1 State.reset) := ⟨rfl, room rfl _ _ _⟩

theorem test_witness_MoveRegister :
    (at_ 1 State.reset).cur.stage = 1 ∧
      RoomFor 0 (at_ 1 State.reset).params.moveDelay
        (targetWrites .commHi ((moveSource .status 0 (at_ 1 State.reset)).setWidth 64 &&& ones .commHi) (ones .commHi)
          false 0 (at_ 1 State.reset)).length (at_ 1 State.reset) := ⟨rfl, room rfl _ _ _⟩

theorem test_witness_TransferRequests : (at_ 1 State.reset).cur.stage = 1 := rfl

/-- All four bits set, all but one, one only, none. -/
theorem test_witness_ConditionalBranch :
    let st (v : Vector (BitVec 8) 4) : State := at_ 1 { State.reset with fccr := v }
    let bit (v : Vector (BitVec 8) 4) (k : Sec) : Bool := (readReg (.fccr k) (st v)).getLsbD 7
    (∀ k, bit #v[128, 128, 128, 128] k = true) ∧ (∃ k, bit #v[128, 128, 128, 0] k = false) ∧
      (∃ k, bit #v[0, 0, 0, 128] k = true) ∧ ∀ k, bit #v[0, 0, 0, 0] k = false := by decide +kernel

/-- A state with `n` frames, the top one ending at `e`, in which stage 1 of a word at address 0 executes. -/
def loopsAt (n : Nat) (e : Addr) (d : Bool) : State :=
  stageState 1 d (Latch.fresh 0)
    { State.reset with
      loopstk := List.replicate 4 { start := 1, stop := e, count := 3 }, loopDepth := n
      gpr := State.reset.gpr.set 1 1 }

/-- The shortest body, within a loop that ends two words later, one frame below full depth. -/
theorem test_witness_LoopEntryPushesFrame :
    let s := loopsAt 3 4 false
    s.cur.stage = 1 ∧ s.cur.delaySlot = false ∧ s.cur.latch.pcAtIssue.toNat + 2 ≤ (2 : Addr).toNat ∧
      (s.loopDepth = 0 ∨ (2 : Addr).toNat + 2 ≤ (topFrame s).stop.toNat) ∧ s.loopDepth < s.params.loopMaxDepth ∧
      RoomFor 0 s.params.loopRegDelay 3 s ∧ readGpr 1 s ≠ 0 ∧ (1023 : BitVec 10) ≠ 0 :=
  ⟨rfl, rfl, by decide, by decide, by decide, room rfl _ _ _, by decide +kernel, by decide⟩

theorem test_witness_ZeroTripLoopJumps :
    let s := loopsAt 0 0 false
    s.cur.stage = 1 ∧ s.cur.delaySlot = false ∧ s.cur.latch.pcAtIssue.toNat + 2 ≤ (0xFFFF : Addr).toNat ∧
      (s.loopDepth = 0 ∨ (0xFFFF : Addr).toNat + 2 ≤ (topFrame s).stop.toNat) ∧ readGpr 0 s = 0 :=
  ⟨rfl, rfl, by decide, by decide, by decide +kernel⟩

theorem test_witness_LoopOverflowSetsSticky :
    let s := loopsAt 4 4 false
    s.cur.stage = 1 ∧ s.cur.delaySlot = false ∧ s.cur.latch.pcAtIssue.toNat + 2 ≤ (2 : Addr).toNat ∧
      (s.loopDepth = 0 ∨ (2 : Addr).toNat + 2 ≤ (topFrame s).stop.toNat) ∧ s.loopDepth = s.params.loopMaxDepth ∧
      RoomFor 0 0 1 s ∧ readGpr 1 s ≠ 0 :=
  ⟨rfl, rfl, by decide, by decide, rfl, room rfl _ _ _, by decide +kernel⟩

/-- In a delay slot; a body of one word; an end one word before the enclosing end. -/
theorem test_witness_LoopEntryFaults :
    (loopsAt 0 0 true).cur.stage = 1 ∧ (loopsAt 0 0 true).cur.delaySlot = true ∧
      (1 : Addr).toNat < (loopsAt 0 0 false).cur.latch.pcAtIssue.toNat + 2 ∧
      (loopsAt 1 3 false).cur.latch.pcAtIssue.toNat + 2 ≤ (2 : Addr).toNat ∧ 0 < (loopsAt 1 3 false).loopDepth ∧
      (topFrame (loopsAt 1 3 false)).stop.toNat < (2 : Addr).toNat + 2 := by decide +kernel

theorem test_witness_LoopExitPopsFrame :
    let s := loopsAt 1 4 false
    s.cur.stage = 1 ∧ s.cur.delaySlot = false ∧ s.popPending = false ∧ s.xferPending = none ∧ 0 < s.loopDepth ∧
      RoomFor 0 s.params.loopRegDelay 3 s ∧ (loopsAt 0 4 false).loopDepth = 0 ∧ RoomFor 0 0 1 (loopsAt 0 4 false) :=
  ⟨rfl, rfl, rfl, rfl, by decide, room rfl _ _ _, rfl, room rfl _ _ _⟩

theorem test_witness_LoopExitFaults :
    let s : State := { loopsAt 1 4 false with xferPending := some { kind := .loop, target := 1 } }
    (loopsAt 1 4 true).cur.delaySlot = true ∧ s.cur.stage = 1 ∧ s.cur.delaySlot = false ∧
      ({ s with popPending := true } : State).popPending = true ∧
      ∃ a, s.xferPending = some { kind := .loop, target := a } := ⟨rfl, rfl, rfl, rfl, 1, rfl⟩

/-- The room is exact: one write in a slot of one. -/
theorem test_witness_SyncAndStop :
    let s := at_ 1 (State.zero { Params.reference with maxSlotWrites := some 1 })
    (at_ 0 State.reset).cur.stage = 0 ∧ s.cur.stage = 1 ∧ RoomFor 0 0 1 s :=
  ⟨rfl, rfl, fun n hn => by cases hn; decide⟩

theorem test_witness_ScheduleAppendsOrOverflows :
    let s := State.zero { Params.reference with maxSlotWrites := some 1 }
    let t := scheduled 0 0 [coreWrite .comm 1 1 true s] s
    t.params.maxSlotWrites = some (slot ((t.cycle + 0 + 0) % t.params.queueDepth) t).length ∧
      s.params.maxSlotWrites ≠ some (slot ((s.cycle + 7 + 1) % s.params.queueDepth) s).length := by decide +kernel

theorem test_witness_CommitInOrder : Reg.comm ≠ Reg.status := by decide

/-- The largest delay. -/
theorem test_witness_BypassVisibility :
    let s := State.reset
    s.queue.length = s.params.queueDepth ∧ 7 < s.params.queueDepth ∧
      (∃ t, sched .comm 1 1 7 true s = .next t ∧ true = true) ∧
      ∀ e, 7 < e → e < s.params.queueDepth → ∀ w ∈ slot ((s.cycle + e) % s.params.queueDepth) s,
        w.reg ≠ .comm ∨ w.bypass = false :=
  ⟨rfl, by decide, next_of (p := fun _ => true) (by decide +kernel), fun e h1 h2 => absurd h2 (by
    have : State.reset.params.queueDepth = 8 := rfl
    omega)⟩

theorem test_witness_FlagsAccumulate : (0x3F : FpFlags) ≠ 0 ∧ RoomFor 0 7 2 State.reset := ⟨by decide, room rfl _ _ _⟩

/-- A state with a latched transfer. -/
def pending (k : XferKind) (cd : Nat) : State :=
  { State.reset with xferPending := some { kind := k, target := 9 }, callDepth := cd }

theorem test_witness_PcUpdatePriority :
    let p : State := { pending .jump 0 with popPending := true, loopDepth := 1 }
    (p.popPending = true ∧ p.xferPending ≠ none) ∧
      ((pending .loop 0).popPending = false ∧ (pending .loop 0).xferPending = some { kind := .loop, target := 9 }) ∧
      (State.reset.popPending = false ∧ State.reset.xferPending = none ∧
        ¬ (Mode.running = .running ∧ 0 < State.reset.loopDepth ∧ (0xFFFF : Addr) + 1 = (topFrame State.reset).stop)) := by
  decide +kernel

theorem test_witness_AppliedCall :
    let s := pending .call 3
    (s.popPending = false ∧ s.xferPending = some { kind := .call, target := 9 } ∧ s.callDepth < s.params.callMaxDepth ∧
      RoomFor 1 s.params.callRegDelay 1 s) ∧
      (pending .call 4).params.callMaxDepth ≤ (pending .call 4).callDepth ∧ RoomFor 1 0 1 (pending .call 4) :=
  ⟨⟨rfl, rfl, by decide, room rfl _ _ _⟩, by decide, room rfl _ _ _⟩

theorem test_witness_AppliedReturn :
    let s := pending .ret 1
    (s.popPending = false ∧ s.xferPending = some { kind := .ret, target := 9 } ∧ 0 < s.callDepth ∧
      RoomFor 1 s.params.callRegDelay 1 s) ∧ (pending .ret 0).callDepth = 0 ∧ RoomFor 1 0 1 (pending .ret 0) :=
  ⟨⟨rfl, rfl, by decide, room rfl _ _ _⟩, rfl, room rfl _ _ _⟩

/-- The last pass, the pass before it, and a pass with a transfer requested. -/
theorem test_witness_LoopEndDetection :
    let s (n : BitVec 32) : State :=
      { State.reset with loopstk := List.replicate 4 { start := 1, stop := 4, count := n }, loopDepth := 1 }
    let q : State := { s 2 with xferReq := some { kind := .jump, target := 9 } }
    ((s 1).popPending = false ∧ (s 1).xferPending = none ∧ 0 < (s 1).loopDepth ∧ (3 : Addr) + 1 = (topFrame (s 1)).stop ∧
      RoomFor 1 (s 1).params.loopRegDelay 1 (s 1)) ∧
      (topFrame (s 1)).count - 1 = 0 ∧ (topFrame (s 2)).count - 1 ≠ 0 ∧ (s 2).xferReq = none ∧ q.xferReq ≠ none :=
  ⟨⟨rfl, rfl, by decide, rfl, room rfl _ _ _⟩, by decide, by decide, rfl, by decide⟩

theorem test_witness_PendingPopRestoresParent :
    let s : State := { State.reset with popPending := true, loopDepth := 1 }
    s.popPending = true ∧ s.xferPending = none ∧ RoomFor 1 s.params.loopRegDelay 3 s := ⟨rfl, rfl, room rfl _ _ _⟩

theorem test_witness_LatchTransfer :
    let x : Xfer := { kind := .jump, target := 9 }
    let s : State := { State.reset with xferReq := some x }
    State.reset.xferReq = none ∧ s.xferReq = some x ∧ s.xferPending = none ∧
      ({ s with xferPending := some x } : State).xferPending ≠ none := by decide

theorem test_witness_ReturnUndoesCall :
    let s : State := pending .call 3
    ∃ u w : State, s.popPending = false ∧ s.callDepth < s.params.callMaxDepth ∧ s.callstk.length = s.params.callMaxDepth ∧
      s.xferPending = some { kind := .call, target := 9 } ∧ pcUpdate 5 .running s = .next u ∧
      pcUpdate 7 .running { u with xferPending := some { kind := .ret, target := 0 } } = .next w ∧ w.pc = 6 :=
  ⟨_, _, rfl, by decide, rfl, rfl, rfl, rfl, rfl⟩

theorem test_witness_FifoPush :
    let full : State := { State.reset with fifo := List.replicate 8 (.exec 0) }
    State.reset.params.iramWords ≤ (1024 : Addr).toNat ∧
      (¬ ∃ a w, FifoEntry.exec 0 = .preload a w ∧ State.reset.params.iramWords ≤ a.toNat) ∧
      full.fifo.length = full.params.fifoMaxSize ∧ State.reset.fifo.length ≠ State.reset.params.fifoMaxSize :=
  ⟨by decide, (fun ⟨_, _, h, _⟩ => by cases h), rfl, by decide⟩

/-- Two states that differ in a general register only, and an addition that runs in both. -/
theorem test_witness_SectionsAreIsolated :
    let s := lanes 0x3F8000003F800000 0x4000000040000000 0
    let t : State := { s with gpr := s.gpr.set 1 1 }
    s ≠ t ∧ SectionEq 3 s t ∧ (∃ s', exec (.fadd false 0 4 1 2) s = .next s' ∧ true = true) ∧
      ∃ t', exec (.fadd false 0 4 1 2) t = .next t' ∧ true = true :=
  ⟨by decide +kernel,
   { params := rfl, cycle := rfl, cur := rfl, slots := rfl
     committed := fun r hr => by cases r <;> first | rfl | cases hr
     pending := fun _ => rfl },
   next_of (p := fun _ => true) (by decide +kernel), next_of (p := fun _ => true) (by decide +kernel)⟩

theorem test_witness_SetImmediateCommitsInItsStep :
    Inv (fetching 0x291EBEEF) ∧ Fetches .hnop (.seti (.gpr 15) false 0xBEEF) (fetching 0x291EBEEF) ∧
      (fetching 0x291EBEEF).annulNext = false ∧ (fetching 0x291EBEEF).params.moveDelay = 0 ∧
      ∃ t, step (fetching 0x291EBEEF) = .next t ∧ (t.gpr[15] == 0xBEEF) = true :=
  ⟨fetching_inv_seti, fetches_seti, rfl, rfl, next_of (by decide +kernel)⟩

theorem test_witness_StopCommitsCodeAndDrains :
    Inv (fetching 0x64000007) ∧ Fetches .hnop (.stop 7) (fetching 0x64000007) ∧ (fetching 0x64000007).annulNext = false ∧
      (fetching 0x64000007).xferPending = none ∧ (fetching 0x64000007).loopDepth = 0 ∧
      ∃ t, step (fetching 0x64000007) = .next t ∧ (t.stopcode == 7 && t.pc == 1) = true :=
  ⟨fetching_inv_stop, fetches_stop, rfl, rfl, rfl, next_of (by decide +kernel)⟩

/-! ## The host's operations (60_exceptions.md R380, R385, R386) -/

/-- A reset image that names an IRAM word beyond `IRAM_WORDS` is refused, one at the last word is loaded (log 24). -/
theorem test_hostReset_bound :
    (hostReset { iram := [(1024, 5)], lmem := [], regs := [] } State.reset).isOk = false ∧
      (hostReset { iram := [(1023, 5)], lmem := [], regs := [(.status, 0xFFFFFFFF)] } State.reset).toOption.map
        (fun s => (s.iram, s.status)) = some ([(1023, 5)], 0x3FF9) := by decide +kernel

/-- The last word is in range, a word beyond it is not (R89); an empty range at the end is (log 26). -/
theorem test_iramRead_bound :
    iramRead 1 1023 State.reset = .ok [0] ∧ iramRead 1 1024 State.reset = .error .outOfRange ∧
      iramRead 0 1024 State.reset = .ok [] ∧ iramRead 0 1025 State.reset = .error .outOfRange := by decide

/-- The read-only bits of a document's STATUS and FCSR do not reach the state (log 17). -/
theorem test_loadState_masks :
    let p := saveState { State.reset with status := 0xFFFFFFFF, fcsr := Vector.replicate 4 0xFFFFFFFF }
    (loadState p State.reset).toOption.map (fun s => (s.status, s.fcsr)) =
        some (0x3FF9, Vector.replicate 4 0x3F) ∧
      (loadState { p with iram := [(1024, 1)] } State.reset).isOk = false := by decide +kernel

/-- A debug read of the call stack and of the FIFO. -/
theorem test_debugRead :
    debugRead .callStack { State.reset with callstk := [6, 0, 0, 0], callDepth := 1 } = .callStack [6, 0, 0, 0] 1 ∧
      debugRead .fifo { State.reset with fifo := [.exec 7] } = .fifo [.exec 7] := ⟨rfl, rfl⟩

end Sys2Proof.Tests
end

section
/-! The sections of the arithmetic unit are isolated (00_scope.md R12, 40_machine.md R172): what a section of `ExecHi`
or `ExecCmp` schedules is a function of the registers of that section alone, and no section writes to a register of
another one. -/

namespace Sys2Proof.Machine

/-! ## What a section can read -/

/-- The registers that a section's operands are read from are its own. -/
theorem sectionOf_operand {sec : Sec} {r : Reg} (h : (∃ i, r = .fpr sec i) ∨ r = .fccr sec) :
    sectionOf r = some sec := by
  rcases h with ⟨i, rfl⟩ | rfl <;> rfl

/-- Only the pending writes to a section decide what a bypass read of its registers finds (40_machine.md R158). -/
theorem lastBypass_filter_inSection {k : Sec} {r : Reg} (hr : sectionOf r = some k) (ws : List PendingWrite) :
    lastBypass r (ws.filter (inSection k)) = lastBypass r ws := by
  have hin : ∀ w, decide (inSection k w = true ∧ bypasses r w = true) = bypasses r w := fun w => by
    by_cases hw : w.reg = r <;> simp [inSection, bypasses, hw, hr]
  unfold lastBypass
  rw [← List.filter_reverse, List.find?_filter]
  simp only [hin]

/-- States that a section cannot tell apart give the same bypass reads of its registers. -/
theorem SectionEq.readReg_eq {k : Sec} {s t : State} (h : SectionEq k s t) {r : Reg} (hr : sectionOf r = some k) :
    readReg r t = readReg r s :=
  readReg_congr h.params.symm h.cycle.symm (h.committed r hr).symm fun j => by
    rw [← lastBypass_filter_inSection hr, ← h.pending j, lastBypass_filter_inSection hr]

/-! ## What a section can write -/

/-- A write of section `j` is a pending write of section `k` only if `j` is `k`: it goes to the section's own registers
or to STATUS, which belongs to no section. -/
theorem eq_of_inSection {j k : Sec} {w : PendingWrite} (hw : sectionReg j w.reg) (hk : inSection k w = true) :
    j = k := by
  have hk : sectionOf w.reg = some k := of_decide_eq_true hk
  rcases hw with h | ⟨i, h⟩ | h | h <;> rw [h] at hk
  · cases hk
  all_goals exact Option.some.inj hk

/-- Of the writes of the four sections, only its own are pending writes of section `k`. -/
theorem filter_inSection_sectionWrites {k : Sec} {ws : Sec → List PendingWrite}
    (h : ∀ j, ∀ w ∈ ws j, sectionReg j w.reg) :
    (sectionWrites ws).filter (inSection k) = (ws k).filter (inSection k) := by
  have hother : ∀ j, j ≠ k → (ws j).filter (inSection k) = [] := fun j hj =>
    List.filter_eq_nil_iff.mpr fun w hw hk => hj (eq_of_inSection (h j w hw) hk)
  unfold sectionWrites
  simp only [List.filter_append]
  match k with
  | 0 => simp [hother 1, hother 2, hother 3]
  | 1 => simp [hother 0, hother 2, hother 3]
  | 2 => simp [hother 0, hother 1, hother 3]
  | 3 => simp [hother 0, hother 1, hother 2]

/-- A slot after writes are scheduled, whether or not the queue has the slot they go to. -/
theorem slot_scheduled (late d : Nat) (ws : List PendingWrite) (s : State) (j : Nat) :
    slot j (scheduled late d ws s) =
      if j = slotIndex late d s ∧ j < s.queue.length then slot j s ++ ws else slot j s := by
  unfold scheduled
  rcases Nat.lt_or_ge (slotIndex late d s) s.queue.length with hl | hl
  · rw [slot_appendWrites hl]
    by_cases hj : j = slotIndex late d s
    · subst hj
      simp [hl]
    · simp [hj]
  · rw [appendWrites_of_length_le hl, if_neg (by omega)]

/-- Scheduling lists that section `k` cannot tell apart keeps two states indistinguishable for it. -/
theorem SectionEq.scheduled {k : Sec} {s t : State} (h : SectionEq k s t) (late d : Nat) {ws vs : List PendingWrite}
    (hw : ws.filter (inSection k) = vs.filter (inSection k)) :
    SectionEq k (scheduled late d ws s) (scheduled late d vs t) where
  params := h.params
  cycle := h.cycle
  cur := h.cur
  slots := by rw [queue_length_scheduled, queue_length_scheduled, h.slots]
  committed r hr := by rw [rfRead_scheduled, rfRead_scheduled, h.committed r hr]
  pending j := by
    have hidx : slotIndex late d s = slotIndex late d t := by
      unfold slotIndex
      rw [h.cycle, h.params]
    rw [slot_scheduled, slot_scheduled, hidx, h.slots]
    split
    · rw [List.filter_append, List.filter_append, h.pending j, hw]
    · exact h.pending j

/-! ## Handlers that work section by section -/

/-- A handler that keeps any two states indistinguishable for section `k` that were so before it. -/
def Isolates (k : Sec) (f : State → Res) : Prop :=
  ∀ s t s' t', SectionEq k s t → f s = .next s' → f t = .next t' → SectionEq k s' t'

theorem isolates_next (k : Sec) : Isolates k .next := by
  intro s t s' t' h hs ht
  cases hs
  cases ht
  exact h

/-- A stage-1 handler isolates section `k` when every section schedules writes to its own registers only, and those of
section `k` depend on its own registers only. -/
theorem isolates_of_appends {k : Sec} {handler : State → Res} {d : Params → Nat}
    {ws : Sec → State → List PendingWrite}
    (happ : ∀ s, s.cur.stage = 1 →
      Appends 0 (d s.params) (sectionWrites fun j => ws j s) s (inStage1 handler s))
    (hreg : ∀ s j, ∀ w ∈ ws j s, sectionReg j w.reg)
    (hcongr : ∀ s t, SectionEq k s t → ws k t = ws k s) : Isolates k (inStage1 handler) := by
  intro s t s' t' h hs ht
  by_cases h1 : s.cur.stage = 1
  · have h1t : t.cur.stage = 1 := h.cur ▸ h1
    obtain ⟨rfl, -⟩ := (hs ▸ happ s h1).eq_of_next
    obtain ⟨rfl, -⟩ := (ht ▸ happ t h1t).eq_of_next
    rw [← h.params]
    refine h.scheduled 0 _ ?_
    rw [filter_inSection_sectionWrites (hreg s), filter_inSection_sectionWrites (hreg t), hcongr s t h]
  · have h1t : t.cur.stage ≠ 1 := h.cur ▸ h1
    rw [inStage1, if_neg h1] at hs
    rw [inStage1, if_neg h1t] at ht
    exact isolates_next k s t s' t' h hs ht

/-- `ExecHi` isolates the sections (41_arith.md R223). -/
theorem execHi_isolates (k : Sec) (op : ArithOp) (p : Bool) (cc : Fin 8) (fd fs : Fin 64) (ft : Option (Fin 64)) :
    Isolates k (execHi op p cc fd fs ft) :=
  isolates_of_appends (d := fun c => c.lat.get (.arith op))
    (ws := fun j s => hiSectionWrites op p cc fd fs (hiOperand ft j s) j s)
    (fun _ h1 => execHi_appends h1 op p cc fd fs ft) (fun _ _ _ hw => hiSectionWrites_reg hw)
    fun _ _ h => hiSectionWrites_congr h.params.symm h.cycle.symm (fun _ hr => h.readReg_eq (sectionOf_operand hr))
      op p cc fd fs ft

/-- `ExecCmp` isolates the sections (41_arith.md R234). -/
theorem execCmp_isolates (k : Sec) (op : CmpOp) (cc : Fin 8) (fs ft : Fin 64) : Isolates k (execCmp op cc fs ft) :=
  isolates_of_appends (d := fun c => c.lat.get (.cmp op)) (ws := fun j s => cmpSectionWrites op cc fs ft j s)
    (fun _ h1 => execCmp_appends h1 op cc fs ft) (fun _ _ _ hw => cmpSectionWrites_reg hw)
    fun _ _ h => cmpSectionWrites_congr h.params.symm h.cycle.symm (fun _ hr => h.readReg_eq (sectionOf_operand hr))
      op cc fs ft

/-- Every hi sub-instruction but `FPERM` is `HNOP`, an `ExecHi` or an `ExecCmp`, and isolates the sections. -/
theorem exec_isolates (k : Sec) {i : Instr} (hi : i.isHi = true) (hp : ∀ p cc fd fs ft, i ≠ .fperm p cc fd fs ft) :
    Isolates k (exec i) := by
  cases i with
  | hnop => exact isolates_next k
  | fadd p cc fd fs ft => exact execHi_isolates k .fadd p cc fd fs (some ft)
  | fmul p cc fd fs ft => exact execHi_isolates k .fmul p cc fd fs (some ft)
  | fmadd p cc fd fs ft => exact execHi_isolates k .fmadd p cc fd fs (some ft)
  | cmadd p cc fd fs ft => exact execHi_isolates k .cmadd p cc fd fs (some ft)
  | fcmpeq cc fs ft => exact execCmp_isolates k .eq cc fs ft
  | fcmplt cc fs ft => exact execCmp_isolates k .lt cc fs ft
  | fcmple cc fs ft => exact execCmp_isolates k .le cc fs ft
  | fperm p cc fd fs ft => exact absurd rfl (hp p cc fd fs ft)
  | fsin p cc fd fs => exact execHi_isolates k .fsin p cc fd fs none
  | fcos p cc fd fs => exact execHi_isolates k .fcos p cc fd fs none
  | frecip p cc fd fs => exact execHi_isolates k .frecip p cc fd fs none
  | flog2 p cc fd fs => exact execHi_isolates k .flog2 p cc fd fs none
  | fexp2 p cc fd fs => exact execHi_isolates k .fexp2 p cc fd fs none
  | fsqrt p cc fd fs => exact execHi_isolates k .fsqrt p cc fd fs none
  | _ => cases hi

end Sys2Proof.Machine

open Sys2Proof.Machine

/-- Settles O58: section `k` reads and writes its own registers only in every hi sub-instruction but `FPERM`. -/
theorem sectionsAreIsolated : Obligations.SectionsAreIsolated := by
  unfold Obligations.SectionsAreIsolated
  intro k i s t s' t' hi hp
  exact exec_isolates k hi hp s t s' t'

end

section
/-! What the stages of the sub-instructions and the PC update can do to a state, said once (40_machine.md R150, R163,
R190): which elements they leave alone, and that they keep `CoreInv`. -/

namespace Sys2Proof.Machine

/-! ## The elements that are left alone -/

/-- The state with the elements blanked that a stage of a sub-instruction can change: two states with the same
`outsideStage` agree in every other element (40_machine.md R150). -/
def outsideStage (s : State) : State :=
  { s with
    lmem := Vector.replicate 4 [], loopstk := [], loopDepth := 0, queue := []
    drain := { kind := .none, count := 0 }, xferReq := none, annulNext := false, cur := StageCtx.idle }

/-- The state with the elements blanked that the PC update and the transfer latch can change (40_machine.md R190 to
R197). -/
def outsidePcUpdate (s : State) : State :=
  { s with
    pc := 0, loopstk := [], loopDepth := 0, callstk := [], callDepth := 0, queue := []
    xferReq := none, xferPending := none, popPending := false }

/-- The outcome `o` of an operation on `s`, where it goes on: what `view` shows is as before, and `CoreInv` is kept. -/
structure Keeps (view : State → State) (s : State) (o : Res) : Prop where
  of_next : ∀ {t}, o = .next t → view t = view s ∧ (CoreInv s → CoreInv t)

section Keeps

variable {view : State → State} {s : State}

theorem keeps_next {u : State} (hv : view u = view s) (hc : CoreInv s → CoreInv u) : Keeps view s (.next u) :=
  ⟨fun ht => by cases ht; exact ⟨hv, hc⟩⟩

theorem keeps_self : Keeps view s (.next s) := keeps_next rfl id

theorem keeps_fault (r : Fault) : Keeps view s (.fault r) := ⟨fun ht => by cases ht⟩

/-- An operation that first changes the state without a fault, and then works as from the changed state. -/
theorem Keeps.after {u : State} {o : Res} (h : Keeps view u o) (hv : view u = view s) (hc : CoreInv s → CoreInv u) :
    Keeps view s o :=
  ⟨fun ht => have ⟨hvt, hct⟩ := h.of_next ht; ⟨hvt.trans hv, hct ∘ hc⟩⟩

theorem Keeps.andThen {o : Res} {f : State → Res} (h : Keeps view s o) (hf : ∀ u, Keeps view u (f u)) :
    Keeps view s (andThen o f) := by
  refine ⟨fun ht => ?_⟩
  obtain ⟨u, hu, ht⟩ := andThen_eq_next ht
  obtain ⟨hv, hc⟩ := h.of_next hu
  exact ((hf u).after hv hc).of_next ht

theorem forSections_keeps {f : Sec → State → Res} (hf : ∀ sec u, Keeps view u (f sec u)) :
    Keeps view s (forSections f s) :=
  (hf 0 s).andThen fun u => (hf 1 u).andThen fun u => (hf 2 u).andThen fun u => hf 3 u

theorem inStage1_keeps {handler : State → Res} (h : Keeps view s (handler s)) :
    Keeps view s (inStage1 handler s) := by
  unfold inStage1
  split
  · exact h
  · exact keeps_self

end Keeps

/-! ## Scheduling a write -/

theorem Params.queueDepth_of_ok {p : Params} (h : p.ok = true) : 8 ≤ p.queueDepth := by
  simp only [Params.ok, Bool.and_eq_true, decide_eq_true_eq] at h
  have hmax : maxDelay = 7 := rfl
  omega

theorem CoreInv.slotIndex_lt {s : State} (h : CoreInv s) (late d : Nat) : slotIndex late d s < s.queue.length := by
  rw [h.queueLength]
  exact Nat.mod_lt _ (Nat.lt_of_lt_of_le (by decide) (Params.queueDepth_of_ok h.params))

theorem slot_mem {k : Nat} {s : State} (h : k < s.queue.length) : slot k s ∈ s.queue := by
  simp [slot, List.getD_eq_getElem?_getD, h]

theorem CoreInv.roomFor {s : State} (h : CoreInv s) (late d : Nat) : RoomFor late d 0 s :=
  h.slotBound _ (slot_mem (h.slotIndex_lt late d))

/-- Writes of the core that find room in their slot keep `CoreInv`; the room is what `Appends` answers. -/
theorem CoreInv.scheduled {late d : Nat} {ws : List PendingWrite} {s : State} (h : CoreInv s)
    (hroom : slotIndex late d s < s.queue.length → RoomFor late d 0 s → RoomFor late d ws.length s)
    (hcore : ∀ w ∈ ws, w.origin = .core) : CoreInv (scheduled late d ws s) := by
  have hlt := h.slotIndex_lt late d
  have hmem := slot_mem hlt
  have hnew : ∀ sl ∈ (Machine.scheduled late d ws s).queue,
      sl ∈ s.queue ∨ sl = slot (slotIndex late d s) s ++ ws := fun sl hsl => List.mem_or_eq_of_mem_set hsl
  exact { h with
    queueLength := (queue_length_scheduled late d ws s).trans h.queueLength
    slotBound := fun sl hsl n hn => by
      rcases hnew sl hsl with hsl | rfl
      · exact h.slotBound sl hsl n hn
      · rw [List.length_append]
        exact hroom hlt (h.roomFor late d) n hn
    coreWrites := fun sl hsl w hw => by
      rcases hnew sl hsl with hsl | rfl
      · exact h.coreWrites sl hsl w hw
      · exact (List.mem_append.mp hw).elim (h.coreWrites _ hmem w) (hcore w) }

/-- A handler that schedules writes of the core and goes on keeps `CoreInv`. -/
theorem Appends.coreInv {late d : Nat} {ws : List PendingWrite} {s t : State} (ha : Appends late d ws s (.next t))
    (hcore : ∀ w ∈ ws, w.origin = .core) (h : CoreInv s) : CoreInv t := by
  obtain ⟨rfl, hroom⟩ := ha.eq_of_next
  exact h.scheduled hroom hcore

/-- `Sched` changes the queue only (40_machine.md R153). -/
theorem schedAt_keeps {view : State → State} (hq : ∀ q s, view { s with queue := q } = view s) (late : Nat) (r : Reg)
    (v m : Word) (d : Nat) (b : Bool) (s : State) : Keeps view s (schedAt late r v m d b s) := by
  refine ⟨fun {t} ht => ?_⟩
  have ha := ht ▸ schedAt_appends late r v m d b s
  refine ⟨?_, ha.coreInv (by simp [coreWrite])⟩
  rw [ha.eq_of_next.1]
  exact hq _ s

/-- `Sched` from a stage handler. -/
theorem sched_keeps (r : Reg) (v m : Word) (d : Nat) (b : Bool) (s : State) :
    Keeps outsideStage s (sched r v m d b s) := schedAt_keeps (fun _ _ => rfl) 0 r v m d b s

theorem setSticky_keeps (bit : Word) (s : State) : Keeps outsideStage s (setSticky bit s) := sched_keeps ..

/-- `Sched` from the PC update. -/
theorem schedAt_keeps_late (r : Reg) (v m : Word) (d : Nat) (b : Bool) (s : State) :
    Keeps outsidePcUpdate s (schedAt 1 r v m d b s) := schedAt_keeps (fun _ _ => rfl) 1 r v m d b s

/-! ## The hi sub-instructions -/

theorem writeFlags_keeps (sec : Sec) (f : FpFlags) (d : Nat) (b : Bool) (s : State) :
    Keeps outsideStage s (writeFlags sec f d b s) := by
  unfold writeFlags
  split
  · exact keeps_self
  · exact (sched_keeps ..).andThen fun u => sched_keeps ..

theorem execHi_keeps (op : ArithOp) (p : Bool) (cc : Fin 8) (fd fs : Fin 64) (ft : Option (Fin 64)) (s : State) :
    Keeps outsideStage s (execHi op p cc fd fs ft s) := by
  refine inStage1_keeps (forSections_keeps fun sec u => ?_)
  unfold hiSection
  split
  · exact (sched_keeps ..).andThen fun v => writeFlags_keeps ..
  · exact keeps_self

theorem execCmp_keeps (op : CmpOp) (cc : Fin 8) (fs ft : Fin 64) (s : State) :
    Keeps outsideStage s (execCmp op cc fs ft s) :=
  inStage1_keeps (forSections_keeps fun _ _ => (sched_keeps ..).andThen fun _ => writeFlags_keeps ..)

theorem execFperm_keeps (p : Bool) (cc : Fin 8) (fd fs ft : Fin 64) (s : State) :
    Keeps outsideStage s (execFperm p cc fd fs ft s) := by
  refine inStage1_keeps (forSections_keeps fun sec u => ?_)
  unfold permSection
  split
  · exact sched_keeps ..
  · exact keeps_self

/-! ## The memory sub-instructions and the register moves -/

/-- Working values of the entry are no part of `CoreInv`. -/
theorem CoreInv.setLatch {s : State} (h : CoreInv s) (l : Latch) : CoreInv (setLatch l s) := { h with }

theorem setLatch_keeps (l : Latch) (s : State) : Keeps outsideStage s (.next (setLatch l s)) :=
  keeps_next rfl (·.setLatch l)

theorem updateAddress_keeps (mode : AddrMode) (n : Fin 8) (s : State) :
    Keeps outsideStage s (updateAddress mode n s) := by
  cases mode with
  | offset off13 => exact keeps_self
  | postModify => exact sched_keeps ..

theorem loadSection_keeps (dbl : Bool) (f : Fin 64) (sec : Sec) (s : State) :
    Keeps outsideStage s (loadSection dbl f sec s) := by
  unfold loadSection
  split
  · refine (sched_keeps ..).andThen fun u => ?_
    cases dbl with
    | false => exact keeps_self
    | true => exact sched_keeps ..
  · exact keeps_self

theorem storeWrite_keeps_core (dbl : Bool) (s : State) : Keeps outsideStage s (.next (storeWrite dbl s)) := by
  refine keeps_next (by rw [storeWrite_eq]; rfl) fun h => ?_
  have hm := storeWrite_in h.lmem dbl
  rw [storeWrite_eq]
  exact { h with lmem := hm }

theorem loadOp_keeps (dbl : Bool) (mode : AddrMode) (p : Bool) (cc : Fin 8) (f : Fin 64) (n : Fin 8) (s : State) :
    Keeps outsideStage s (loadOp dbl mode p cc f n s) := by
  unfold loadOp
  split
  · exact setLatch_keeps ..
  · exact (updateAddress_keeps ..).after rfl (·.setLatch _)
  · exact forSections_keeps fun sec u => loadSection_keeps ..
  · exact keeps_self

theorem storeOp_keeps (dbl : Bool) (mode : AddrMode) (p : Bool) (cc : Fin 8) (f : Fin 64) (n : Fin 8) (s : State) :
    Keeps outsideStage s (storeOp dbl mode p cc f n s) := by
  unfold storeOp
  split
  · exact (setLatch_keeps ..).after rfl (·.setLatch _)
  · exact (updateAddress_keeps ..).andThen fun u => storeWrite_keeps_core dbl u
  · exact keeps_self

theorem execAupd_keeps (n : Fin 8) (off13 : BitVec 13) (s : State) : Keeps outsideStage s (execAupd n off13 s) := by
  unfold execAupd
  split
  · exact setLatch_keeps ..
  · exact sched_keeps ..
  · exact keeps_self

theorem schedTargets_keeps (rd : RegName) (v m : Word) (bc : Bool) (sec : Sec) (s : State) :
    Keeps outsideStage s (schedTargets rd v m bc sec s) := by
  unfold schedTargets
  split
  · exact forSections_keeps fun k u => sched_keeps ..
  · exact sched_keeps ..

/-! ## The control sub-instructions -/

theorem requestXfer_keeps (kind : XferKind) (a : Addr) (s : State) :
    Keeps outsideStage s (requestXfer kind a s) := keeps_next rfl fun h => { h with }

theorem execBcc_keeps (all : Bool) (cc : Fin 8) (a : Addr) (s : State) :
    Keeps outsideStage s (execBcc all cc a s) := by
  refine inStage1_keeps ?_
  unfold bccHandler
  split
  · exact requestXfer_keeps ..
  · exact keeps_self

/-- A push below full depth keeps the loop stack within its capacity (40_machine.md R200). -/
theorem CoreInv.pushed {s : State} (h : CoreInv s) (hd : s.loopDepth ≠ s.params.loopMaxDepth) (start stop : Addr)
    (n : BitVec 32) : CoreInv (pushed start stop n s) :=
  have ⟨hlen, hle⟩ := h.loops
  { h with
    loops := ⟨List.length_set.trans hlen, Nat.lt_of_le_of_ne hle hd⟩
    pop := fun _ => Nat.succ_pos _ }

theorem doCommon_keeps (stop : Addr) (n : BitVec 32) (s : State) : Keeps outsideStage s (doCommon stop n s) := by
  unfold doCommon
  split
  · exact keeps_fault _
  split
  · exact keeps_fault _
  split
  · exact keeps_fault _
  split
  · exact (requestXfer_keeps ..).andThen fun u => keeps_next rfl fun h => { h with }
  split
  · exact setSticky_keeps ..
  next hd =>
    refine ⟨fun {t} ht => ?_⟩
    have ha := ht ▸ loopPush_appends (s.cur.latch.pcAtIssue + 1) stop n s
    refine ⟨by rw [ha.eq_of_next.1]; rfl, fun h => ?_⟩
    exact ha.coreInv (by simp [pushMirrors, coreWrite]) (h.pushed hd _ _ _)

/-- A pop that no pending pop is waiting for leaves a depth within the capacity (40_machine.md R202). -/
theorem CoreInv.popped {s : State} (h : CoreInv s) (hp : s.popPending = false) :
    CoreInv { s with loopDepth := s.loopDepth - 1 } :=
  have ⟨hlen, hle⟩ := h.loops
  { h with
    loops := ⟨hlen, (Nat.sub_le ..).trans hle⟩
    pop := fun e => absurd (hp.symm.trans e) Bool.false_ne_true }

theorem popMirrors_core (f : LoopFrame) (depth : Nat) (s : State) : ∀ w ∈ popMirrors f depth s, w.origin = .core := by
  simp [popMirrors, coreWrite]

theorem execEnddo_keeps (s : State) : Keeps outsideStage s (execEnddo s) := by
  refine inStage1_keeps ?_
  unfold enddoHandler
  split
  · exact keeps_fault _
  split
  · exact keeps_fault _
  next hp =>
    have hp : s.popPending = false := by
      rw [Bool.not_eq_true, Bool.or_eq_false_iff] at hp
      exact hp.1
    split
    · exact setSticky_keeps ..
    · refine ⟨fun {t} ht => ?_⟩
      have ha := ht ▸ loopPop_appends 0 s
      refine ⟨by rw [ha.eq_of_next.1]; rfl, fun h => ?_⟩
      exact ha.coreInv (popMirrors_core _ _ _) (h.popped hp)

/-- A drain of `SYNC` or `STOP` starts at 7 (40_machine.md R162). -/
theorem startDrain_keeps {kind : DrainKind} (hk : kind ≠ .none) (s : State) :
    Keeps outsideStage s (.next (startDrain kind s)) :=
  keeps_next rfl fun h => { h with drain := ⟨iff_of_false hk (show drainCycles ≠ 0 by decide), le_refl _⟩ }

theorem execSync_keeps (s : State) : Keeps outsideStage s (execSync s) := by
  unfold execSync
  split
  · exact startDrain_keeps (by decide) s
  · exact keeps_self

theorem execStop_keeps (code : BitVec 16) (s : State) : Keeps outsideStage s (execStop code s) := by
  unfold execStop
  split
  · exact startDrain_keeps (by decide) s
  · exact sched_keeps ..
  · exact keeps_self

/-! ## Every stage of every sub-instruction -/

/-- No stage of a sub-instruction changes an element outside `outsideStage`, and every one keeps `CoreInv`
(40_machine.md R150). -/
theorem exec_keeps (i : Instr) (s : State) : Keeps outsideStage s (exec i s) := by
  cases i with
  | hnop => exact keeps_self
  | fadd p cc fd fs ft => exact execHi_keeps ..
  | fmul p cc fd fs ft => exact execHi_keeps ..
  | fmadd p cc fd fs ft => exact execHi_keeps ..
  | cmadd p cc fd fs ft => exact execHi_keeps ..
  | fcmpeq cc fs ft => exact execCmp_keeps ..
  | fcmplt cc fs ft => exact execCmp_keeps ..
  | fcmple cc fs ft => exact execCmp_keeps ..
  | fperm p cc fd fs ft => exact execFperm_keeps ..
  | fsin p cc fd fs => exact execHi_keeps ..
  | fcos p cc fd fs => exact execHi_keeps ..
  | frecip p cc fd fs => exact execHi_keeps ..
  | flog2 p cc fd fs => exact execHi_keeps ..
  | fexp2 p cc fd fs => exact execHi_keeps ..
  | fsqrt p cc fd fs => exact execHi_keeps ..
  | lnop => exact keeps_self
  | ld p cc f n off13 => exact loadOp_keeps ..
  | ldd p cc f n off13 => exact loadOp_keeps ..
  | st p cc f n off13 => exact storeOp_keeps ..
  | std p cc f n off13 => exact storeOp_keeps ..
  | ldm p cc f n => exact loadOp_keeps ..
  | lddm p cc f n => exact loadOp_keeps ..
  | stm p cc f n => exact storeOp_keeps ..
  | stdm p cc f n => exact storeOp_keeps ..
  | aupd n off13 => exact execAupd_keeps ..
  | seti rd u imm16 => exact inStage1_keeps (schedTargets_keeps ..)
  | move rd rs sec bc => exact inStage1_keeps (schedTargets_keeps ..)
  | jump a => exact inStage1_keeps (requestXfer_keeps ..)
  | bcc all cc a => exact execBcc_keeps ..
  | call g => exact inStage1_keeps (requestXfer_keeps ..)
  | calli a => exact inStage1_keeps (requestXfer_keeps ..)
  | ret => exact inStage1_keeps (requestXfer_keeps ..)
  | doLoop g a => exact inStage1_keeps (doCommon_keeps ..)
  | doi n a => exact inStage1_keeps (doCommon_keeps ..)
  | enddo => exact execEnddo_keeps s
  | sync => exact execSync_keeps s
  | stop code => exact execStop_keeps ..

theorem runStage_keeps (i : Instr) (stage : Nat) (ds : Bool) (l : Latch) (s : State) :
    Keeps outsideStage s (runStage i stage ds l s) := (exec_keeps ..).after rfl fun h => { h with }

/-! ## The PC update -/

theorem setPc_keeps (a : Addr) (s : State) : Keeps outsidePcUpdate s (.next (setPc a s)) :=
  keeps_next rfl fun h => { h with }

/-- A call within the capacity keeps the call stack within it; beyond it nothing is pushed (40_machine.md R193). -/
theorem callPush_keeps (ret : Addr) (s : State) : Keeps outsidePcUpdate s (callPush ret s) := by
  unfold callPush
  split
  next hd =>
    refine (schedAt_keeps_late ..).after rfl fun h => ?_
    have ⟨hlen, _⟩ := h.calls
    exact { h with calls := ⟨List.length_set.trans hlen, hd⟩ }
  · exact schedAt_keeps_late ..

theorem applyTransfer_keeps (x : Xfer) (pc0 : Addr) (s : State) :
    Keeps outsidePcUpdate s (applyTransfer x pc0 s) := by
  unfold applyTransfer
  split
  · exact setPc_keeps ..
  · exact setPc_keeps ..
  · exact (callPush_keeps ..).andThen fun u => setPc_keeps ..
  · split
    · refine (schedAt_keeps_late ..).after rfl fun h => ?_
      have ⟨hlen, hle⟩ := h.calls
      exact { h with calls := ⟨hlen, (Nat.sub_le ..).trans hle⟩ }
    · exact (schedAt_keeps_late ..).andThen fun u => setPc_keeps ..

/-- The state in which loop-end detection has counted the top frame down (40_machine.md R195). -/
def countedDown (s : State) : State :=
  { s with
    loopstk := s.loopstk.set (s.loopDepth - 1) { topFrame s with count := (topFrame s).count - 1 } }

/-- What the mirror write of LC can do (40_machine.md R195). -/
theorem mirrorLc_appends (late : Nat) (c : BitVec 32) (s : State) :
    Appends late s.params.loopRegDelay [coreWrite .lc (c.setWidth 64) 0xFFFFFFFF true s] s (mirrorLc late c s) :=
  schedAt_appends ..

theorem CoreInv.countedDown {s : State} (h : CoreInv s) : CoreInv (countedDown s) :=
  have ⟨hlen, hle⟩ := h.loops
  { h with loops := ⟨List.length_set.trans hlen, hle⟩ }

/-- Loop-end detection leaves a pending pop only with the frame that it counted down (40_machine.md R195). -/
theorem loopEnd_keeps (pc0 : Addr) {s : State} (hd : 0 < s.loopDepth) : Keeps outsidePcUpdate s (loopEnd pc0 s) := by
  refine ⟨fun {t} ht => ?_⟩
  obtain ⟨u, hu, ht⟩ := andThen_eq_next ht
  have ha := mirrorLc_appends 1 ((topFrame s).count - 1) (countedDown s)
  rw [show mirrorLc 1 _ (countedDown s) = .next u from hu] at ha
  have hcore : CoreInv s → CoreInv u := fun h => ha.coreInv (by simp [coreWrite]) h.countedDown
  obtain ⟨rfl, -⟩ := ha.eq_of_next
  split at ht
  · cases ht
    exact ⟨rfl, fun h => { hcore h with pop := fun _ => hd }⟩
  split at ht
  · cases ht
  · cases ht
    exact ⟨rfl, fun h => { hcore h with }⟩

/-- The step that executes a pending pop clears it (40_machine.md R190, R202). -/
theorem pendingPop_keeps (pc0 : Addr) (s : State) :
    Keeps outsidePcUpdate s
      (andThen (loopPop 1 s) fun s => .next (setPc (pc0 + 1) { s with popPending := false })) := by
  refine ⟨fun {t} ht => ?_⟩
  obtain ⟨u, hu, ht⟩ := andThen_eq_next ht
  obtain ⟨rfl, hroom⟩ := (hu ▸ loopPop_appends 1 s).eq_of_next
  cases ht
  refine ⟨rfl, fun h => ?_⟩
  have hclear : CoreInv { s with popPending := false } := { h with pop := nofun }
  have hdone := (hclear.popped rfl).scheduled (late := 1) (d := s.params.loopRegDelay) hroom (popMirrors_core _ _ _)
  exact { hdone with }

theorem pcUpdate_keeps (pc0 : Addr) (mode : Mode) (s : State) : Keeps outsidePcUpdate s (pcUpdate pc0 mode s) := by
  unfold pcUpdate
  split
  · split
    · exact keeps_fault _
    · exact pendingPop_keeps pc0 s
  split
  · exact (applyTransfer_keeps ..).after rfl fun h => { h with }
  split
  next h =>
    obtain ⟨-, hdepth, -⟩ := h
    exact loopEnd_keeps pc0 hdepth
  · exact setPc_keeps ..

theorem latchXfer_keeps (ds : Bool) (s : State) : Keeps outsidePcUpdate s (latchXfer ds s) := by
  unfold latchXfer
  split
  · exact keeps_self
  split
  · exact keeps_fault _
  split
  · exact keeps_fault _
  · exact keeps_next rfl fun h => { h with }

/-- No transfer request outlives the latch (40_machine.md R197). -/
theorem latchXfer_xferReq {ds : Bool} {s t : State} (h : latchXfer ds s = .next t) : t.xferReq = none := by
  unfold latchXfer at h
  split at h
  · cases h
    assumption
  split at h
  · cases h
  split at h
  · cases h
  · cases h
    rfl

end Sys2Proof.Machine
end

section
/-! What the decoder answers: a hi and a lo sub-instruction that are well formed (30_encoding.md R106, R118, R121,
R126, R127). -/

namespace Sys2Proof

theorem ifReserved_eq_ok {b : Bool} {i j : Instr} (h : ifReserved b i = .ok j) : b = true ∧ i = j := by
  unfold ifReserved at h
  split at h
  next hb => exact ⟨hb, Except.ok.inj h⟩
  · cases h

/-- Bit 52, which format HC reserves, is the lowest bit of `cc` (R106). -/
theorem idx3_even {w : Word} (h : (field w 52 1 == 0) = true) : ccEven (idx3 w 52) = true := by
  have h0 : (field w 52 1).toNat = 0 := by rw [eq_of_beq h]; rfl
  have hlow : (field w 52 1).toNat = (field w 52 3).toNat % 2 := by
    simp only [field, BitVec.extractLsb'_toNat]
    omega
  simpa [ccEven, idx3, ← hlow] using h0

/-- A compare is only decoded with an even `cc` (R106). -/
theorem decodeHC_eq_ok {mk : Fin 8 → Fin 64 → Fin 64 → Instr} {w : Word} {i : Instr} (h : decodeHC mk w = .ok i) :
    ∃ cc fs ft, i = mk cc fs ft ∧ ccEven cc = true := by
  obtain ⟨hb, rfl⟩ := ifReserved_eq_ok h
  simp only [Bool.and_eq_true] at hb
  obtain ⟨⟨-, hlow⟩, -⟩ := hb
  exact ⟨_, _, _, rfl, idx3_even hlow⟩

/-- `SETI` is only decoded with a destination that it can name (R118, R121). -/
theorem decodeLSI_eq_ok {w : Word} {i : Instr} (h : decodeLSI w = .ok i) :
    ∃ rd u imm16, i = .seti rd u imm16 ∧ setiOk rd u = true := by
  unfold decodeLSI at h
  split at h
  · cases h
  split at h
  next hok => exact ⟨_, _, _, (Except.ok.inj h).symm, hok⟩
  · cases h

/-- `MOVE` is only decoded with a writable destination (R119, R121). -/
theorem decodeLMV_eq_ok {w : Word} {i : Instr} (h : decodeLMV w = .ok i) :
    ∃ rd rs sec bc, i = .move rd rs sec bc ∧ rd.writable = true := by
  unfold decodeLMV at h
  split at h
  · split at h
    · split at h
      next hok => exact ⟨_, _, _, _, (Except.ok.inj h).symm, hok⟩
      · cases h
    · cases h
  · cases h

/-- The hi half of a word decodes to a well-formed hi sub-instruction (R126). -/
theorem decodeHi_wellFormed {w : Word} {i : Instr} (h : decodeHi w = .ok i) :
    i.isHi = true ∧ i.wellFormed = true := by
  unfold decodeHi at h
  split at h
  case h_6 | h_7 | h_8 =>
    obtain ⟨cc, fs, ft, rfl, hcc⟩ := decodeHC_eq_ok h
    exact ⟨rfl, hcc⟩
  case h_16 => cases h
  all_goals
    obtain ⟨-, rfl⟩ := ifReserved_eq_ok h
    exact ⟨rfl, rfl⟩

/-- The lo half of a word decodes to a well-formed lo sub-instruction (R127). -/
theorem decodeLo_wellFormed {w : Word} {i : Instr} (h : decodeLo w = .ok i) :
    i.isHi = false ∧ i.wellFormed = true := by
  unfold decodeLo at h
  split at h
  case h_2 | h_3 | h_4 | h_5 | h_19 =>
    obtain rfl := Except.ok.inj h
    exact ⟨rfl, rfl⟩
  case h_11 =>
    obtain ⟨rd, u, imm16, rfl, hok⟩ := decodeLSI_eq_ok h
    exact ⟨rfl, hok⟩
  case h_12 =>
    obtain ⟨rd, rs, sec, bc, rfl, hok⟩ := decodeLMV_eq_ok h
    exact ⟨rfl, hok⟩
  case h_23 => cases h
  all_goals
    obtain ⟨-, rfl⟩ := ifReserved_eq_ok h
    exact ⟨rfl, rfl⟩

/-- A word that decodes has two halves that decode (R102). -/
theorem decodeWord_eq_ok {w : Word} {hi lo : Instr} (h : decodeWord w = .ok (hi, lo)) :
    decodeHi w = .ok hi ∧ decodeLo w = .ok lo := by
  unfold decodeWord at h
  split at h
  next hhi hlo =>
    cases h
    exact ⟨hhi, hlo⟩
  · cases h
  · cases h

end Sys2Proof
end

section
/-! What the commit phase can do: registers and the log change under the mask, the head slot is cleared, and nothing
else changes (10_state.md R20, R25, R31; 40_machine.md R154). -/

namespace Sys2Proof.Machine

/-- The state with the elements blanked that the commit of a write can change. -/
def outsideCommit (s : State) : State :=
  { State.zero s.params with
    loopstk := s.loopstk, loopDepth := s.loopDepth, callstk := s.callstk, callDepth := s.callDepth
    calpipe := s.calpipe, lmempipe := s.lmempipe, queue := s.queue, cycle := s.cycle, drain := s.drain
    xferReq := s.xferReq, xferPending := s.xferPending, popPending := s.popPending, annulNext := s.annulNext
    fault := s.fault, fifo := s.fifo, iram := s.iram, lmem := s.lmem, cur := s.cur }

theorem commitWrite_outside (w : PendingWrite) (s : State) : outsideCommit (commitWrite w s) = outsideCommit s := by
  unfold commitWrite commitValue
  cases w.reg <;> rfl

theorem commitWrites_outside (ws : List PendingWrite) (s : State) :
    outsideCommit (commitWrites ws s) = outsideCommit s := by
  induction ws generalizing s with
  | nil => rfl
  | cons w ws ih => exact (ih _).trans (commitWrite_outside w s)

/-- The log is no register. -/
theorem rfRead_samelog (r : Reg) (log : List (Reg × Word)) (s : State) :
    rfRead r { s with samelog := log } = rfRead r s := by cases r <;> rfl

theorem rfRead_commitWrite (r : Reg) (w : PendingWrite) (s : State) :
    rfRead r (commitWrite w s) = rfRead r (commitValue w.reg w.value w.mask w.origin s) := rfRead_samelog ..

/-- `COMM_ORIGIN` follows a write to COMM and no other write (10_state.md R33). -/
theorem commitWrite_commOrigin (w : PendingWrite) (s : State) :
    (commitWrite w s).commOrigin = if w.reg = .comm then w.origin else s.commOrigin := by
  unfold commitWrite commitValue
  cases w.reg <;> rfl

/-- The register's new value is logged (40_machine.md R154). -/
theorem commitWrite_samelog (w : PendingWrite) (s : State) :
    (commitWrite w s).samelog = s.samelog ++ [(w.reg, rfRead w.reg (commitWrite w s))] := by
  rw [rfRead_commitWrite]
  show (commitValue w.reg w.value w.mask w.origin s).samelog ++ _ = _
  congr 1
  unfold commitValue
  cases w.reg <;> rfl

/-- The commit phase is a fold over the head slot, which it clears (40_machine.md R154). -/
theorem commitPhase_eq (s : State) :
    commitPhase s =
      { (slot (s.cycle % s.params.queueDepth) s).foldl (fun t w => commitWrite w t) { s with samelog := [] } with
        queue := s.queue.set (s.cycle % s.params.queueDepth) [] } := by
  unfold commitPhase
  dsimp only
  rw [commitWrites_queue, commitWrites_eq_foldl]

/-- Beside registers and the log, the commit phase changes its queue slot only. -/
theorem commitPhase_outside (s : State) :
    outsideCommit (commitPhase s) =
      outsideCommit { s with queue := s.queue.set (s.cycle % s.params.queueDepth) [] } := by
  have h := commitWrites_outside (slot (s.cycle % s.params.queueDepth) s) { s with samelog := [] }
  have hq := commitWrites_queue (slot (s.cycle % s.params.queueDepth) s) { s with samelog := [] }
  unfold commitPhase
  dsimp only
  rw [hq]
  exact congrArg (fun t : State => { t with queue := s.queue.set (s.cycle % s.params.queueDepth) [] }) h

/-- `CoreInv` speaks of no element that a commit can change. -/
theorem coreInv_outsideCommit (s : State) : CoreInv (outsideCommit s) ↔ CoreInv s :=
  ⟨fun h => { h with }, fun h => { h with }⟩

theorem CoreInv.clearSlot {s : State} (h : CoreInv s) (k : Nat) : CoreInv { s with queue := s.queue.set k [] } := by
  have hnew : ∀ sl ∈ s.queue.set k [], sl ∈ s.queue ∨ sl = [] := fun sl hsl => List.mem_or_eq_of_mem_set hsl
  exact { h with
    queueLength := List.length_set.trans h.queueLength
    slotBound := fun sl hsl n hn => by
      rcases hnew sl hsl with hsl | rfl
      · exact h.slotBound sl hsl n hn
      · exact Nat.zero_le n
    coreWrites := fun sl hsl w hw => by
      rcases hnew sl hsl with hsl | rfl
      · exact h.coreWrites sl hsl w hw
      · cases hw }

/-- The commit phase keeps `CoreInv`: it clears a slot and leaves the rest of what `CoreInv` speaks of. -/
theorem CoreInv.commitPhase {s : State} (h : CoreInv s) : CoreInv (commitPhase s) := by
  rw [← coreInv_outsideCommit, commitPhase_outside, coreInv_outsideCommit]
  exact h.clearSlot _

/-! ## Bits that no write changes -/

/-- A bit of STATUS or FCSR after a masked write: the value's where the mask and the writable bits have it, else the old
one. -/
theorem getLsbD_merge32 (old : BitVec 32) (v m b : Word) {i : Nat} (hi : i < 32) :
    ((merge (old.setWidth 64) v (m &&& b)).setWidth 32).getLsbD i =
      if b.getLsbD i = true ∧ m.getLsbD i = true then v.getLsbD i else old.getLsbD i := by
  have hi' : i < 64 := by omega
  simp only [merge, BitVec.getLsbD_setWidth, BitVec.getLsbD_or, BitVec.getLsbD_and, BitVec.getLsbD_not, hi, hi',
    decide_true, Bool.true_and]
  cases b.getLsbD i <;> cases m.getLsbD i <;> simp

/-- A masked write keeps the bits that are outside the writable ones. -/
theorem merge32_and {reserved : BitVec 32} {b : Word} (hb : b.setWidth 32 &&& reserved = 0) (old : BitVec 32)
    (v m : Word) :
    (merge (old.setWidth 64) v (m &&& b)).setWidth 32 &&& reserved = old &&& reserved := by
  ext i hi
  have hbit : (b.setWidth 32 &&& reserved).getLsbD i = false := by rw [hb]; simp
  rw [BitVec.getElem_and, BitVec.getElem_and, ← BitVec.getLsbD_eq_getElem, getLsbD_merge32 old v m b hi]
  cases hr : reserved[i]
  · simp
  · have : b.getLsbD i = false := by simpa [hi, hr, BitVec.getLsbD_eq_getElem hi] using hbit
    simp [this, BitVec.getLsbD_eq_getElem hi]

/-- The computed and reserved bits of STATUS and the reserved bits of FCSR are 0 (10_state.md R25, R30, R31). -/
structure FlagsInv (s : State) : Prop where
  status : s.status &&& statusReserved = 0
  fcsr : ∀ sec : Sec, s.fcsr[sec] &&& fcsrReserved = 0

theorem writeBits_status (o : Origin) : (writeBits .status o).setWidth 32 &&& statusReserved = 0 := by
  cases o <;> decide

theorem writeBits_fcsr_reserved : (0x3F : Word).setWidth 32 &&& fcsrReserved = 0 := by decide

theorem writeBits_fcsr (sec : Sec) (o : Origin) : (writeBits (.fcsr sec) o).setWidth 32 &&& fcsrReserved = 0 := by
  cases o <;> exact writeBits_fcsr_reserved

/-- A committed write changes no reserved bit of STATUS or FCSR (40_machine.md R154). -/
theorem FlagsInv.commitWrite {s : State} (h : FlagsInv s) (w : PendingWrite) : FlagsInv (commitWrite w s) := by
  unfold Machine.commitWrite commitValue
  cases w.reg with
  | status => exact ⟨(merge32_and (writeBits_status _) ..).trans h.status, h.fcsr⟩
  | fcsr k =>
    refine ⟨h.status, fun sec => ?_⟩
    have hget := vector_set_get s.fcsr k sec
      ((merge (rfRead (.fcsr k) s) w.value (w.mask &&& writeBits (.fcsr k) w.origin)).setWidth 32)
    refine (congrArg (· &&& fcsrReserved) hget).trans ?_
    split
    · exact (merge32_and (writeBits_fcsr k _) ..).trans (h.fcsr k)
    · exact h.fcsr sec
  | _ => exact ⟨h.status, h.fcsr⟩

theorem FlagsInv.commitWrites {s : State} (h : FlagsInv s) (ws : List PendingWrite) :
    FlagsInv (commitWrites ws s) := by
  induction ws generalizing s with
  | nil => exact h
  | cons w ws ih => exact ih (h.commitWrite w)

theorem FlagsInv.commitPhase {s : State} (h : FlagsInv s) : FlagsInv (commitPhase s) :=
  have hc := FlagsInv.commitWrites (s := { s with samelog := [] }) ⟨h.status, h.fcsr⟩
    (slot (s.cycle % s.params.queueDepth) s)
  ⟨hc.status, hc.fcsr⟩

end Sys2Proof.Machine

open Sys2Proof.Machine

/-- Settles O46: the phase is a fold over the slot, and one commit is `commitValue` on its register with the log. -/
theorem commitInOrder : Obligations.CommitInOrder := by
  unfold Obligations.CommitInOrder
  refine ⟨commitPhase_eq, fun w t => ?_⟩
  have hview := commitWrite_outside w t
  refine ⟨?_, fun r hr => ?_, commitWrite_commOrigin w t, commitWrite_samelog w t,
    (congrArg State.lmem hview :), (congrArg State.iram hview :), (congrArg State.queue hview :),
    (congrArg State.calpipe hview :), (congrArg State.lmempipe hview :), (congrArg State.loopstk hview :),
    (congrArg State.loopDepth hview :), (congrArg State.callstk hview :), (congrArg State.callDepth hview :),
    (congrArg State.drain hview :), (congrArg State.fifo hview :), (congrArg State.cycle hview :),
    (congrArg State.params hview :), (congrArg State.fault hview :), (congrArg State.xferReq hview :),
    (congrArg State.xferPending hview :), (congrArg State.popPending hview :), (congrArg State.annulNext hview :)⟩
  · exact (rfRead_commitWrite w.reg w t).trans (rfRead_commitValue_same ..)
  · exact (rfRead_commitWrite r w t).trans (rfRead_commitValue_other hr ..)

end

section
/-! The entries in flight: what issue and the shifts do to the two pipelines (40_machine.md R161 to R168). -/

namespace Sys2Proof.Machine

/-! ## Entries in flight -/

/-- What the invariant says of a pipeline entry, the same for both pipelines. -/
structure PipeTag where
  op : Instr
  ticket : Nat
  stage : Nat

/-- The tag of an entry of the arithmetic pipeline. -/
def CalEntry.tag (e : CalEntry) : PipeTag := { op := e.op, ticket := e.ticket, stage := e.stage }

/-- The tag of an entry of the memory/control pipeline. -/
def LmemEntry.tag (e : LmemEntry) : PipeTag := { op := e.op, ticket := e.ticket, stage := e.stage }

/-- An entry after a shift: one stage on, or retired after its last (40_machine.md R163). -/
def PipeTag.advance (last : Nat) (e : PipeTag) : Option PipeTag :=
  if e.stage + 1 = last then none else some { e with stage := e.stage + 1 }

theorem PipeTag.advance_eq_some {last : Nat} {e e' : PipeTag} (h : e.advance last = some e') :
    e.stage + 1 ≠ last ∧ e' = { e with stage := e.stage + 1 } := by
  unfold advance at h
  split at h
  · cases h
  next hne => exact ⟨hne, (Option.some.inj h).symm⟩

/-- A pipeline in good order: tickets rising, ticket and stage adding up to the cycle, stages from `first` to below
`last`, and well-formed sub-instructions of its half. `first` is 1 between steps and 0 after issue. -/
structure InFlight (hi : Bool) (last first cycle : Nat) (es : List PipeTag) : Prop where
  rising : es.Pairwise fun a b => a.ticket < b.ticket
  staged : ∀ e ∈ es, e.ticket + e.stage = cycle ∧ first ≤ e.stage ∧ e.stage < last
  ops : ∀ e ∈ es, e.op.isHi = hi ∧ e.op.wellFormed = true

/-- The pipeline clauses of `Inv`, read off the tags. -/
theorem inFlight_map_iff {α : Type} (tag : α → PipeTag) {hi : Bool} {last cycle : Nat} {l : List α} :
    InFlight hi last 1 cycle (l.map tag) ↔
      Staged last cycle (l.map fun e => ((tag e).ticket, (tag e).stage)) ∧
        ∀ e ∈ l, (tag e).op.isHi = hi ∧ (tag e).op.wellFormed = true := by
  unfold Staged
  constructor
  · rintro ⟨hr, hs, ho⟩
    simp only [List.pairwise_map, List.forall_mem_map] at hr hs ho ⊢
    exact ⟨⟨hr, hs⟩, ho⟩
  · rintro ⟨⟨hr, hs⟩, ho⟩
    simp only [List.pairwise_map, List.forall_mem_map] at hr hs
    exact ⟨List.pairwise_map.mpr hr, List.forall_mem_map.mpr hs, List.forall_mem_map.mpr ho⟩

section InFlight

variable {hi : Bool} {last cycle : Nat} {es : List PipeTag}

/-- A step that issues nothing. -/
theorem InFlight.noIssue (h : InFlight hi last 1 cycle es) : InFlight hi last 0 cycle es where
  rising := h.rising
  staged e he := have ⟨hsum, _, hlt⟩ := h.staged e he; ⟨hsum, Nat.zero_le _, hlt⟩
  ops := h.ops

/-- A new entry comes last, in stage 0, with the cycle as its ticket (40_machine.md R161). -/
theorem InFlight.issue (h : InFlight hi last 1 cycle es) (hlast : 0 < last) {op : Instr}
    (hop : op.isHi = hi ∧ op.wellFormed = true) :
    InFlight hi last 0 cycle (es ++ [{ op := op, ticket := cycle, stage := 0 }]) where
  rising := by
    refine List.pairwise_append.mpr ⟨h.rising, List.pairwise_singleton .., fun e he e' he' => ?_⟩
    obtain ⟨hsum, hpos, -⟩ := h.staged e he
    obtain rfl := List.mem_singleton.mp he'
    show e.ticket < cycle
    omega
  staged e he := by
    rcases List.mem_append.mp he with he | he
    · exact h.noIssue.staged e he
    · obtain rfl := List.mem_singleton.mp he
      exact ⟨rfl, Nat.zero_le _, hlast⟩
  ops e he := by
    rcases List.mem_append.mp he with he | he
    · exact h.ops e he
    · obtain rfl := List.mem_singleton.mp he
      exact hop

/-- A shift moves every entry one stage on in the step that counts one cycle (40_machine.md R163, R167). -/
theorem InFlight.shift (h : InFlight hi last 0 cycle es) :
    InFlight hi last 1 (cycle + 1) (es.filterMap (PipeTag.advance last)) where
  rising := h.rising.filterMap _ fun a a' haa' b hb b' hb' => by
    obtain ⟨-, rfl⟩ := PipeTag.advance_eq_some hb
    obtain ⟨-, rfl⟩ := PipeTag.advance_eq_some hb'
    exact haa'
  staged e he := by
    obtain ⟨a, ha, hae⟩ := List.mem_filterMap.mp he
    obtain ⟨hne, rfl⟩ := PipeTag.advance_eq_some hae
    obtain ⟨hsum, -, hlt⟩ := h.staged a ha
    show a.ticket + (a.stage + 1) = cycle + 1 ∧ 1 ≤ a.stage + 1 ∧ a.stage + 1 < last
    omega
  ops e he := by
    obtain ⟨a, ha, hae⟩ := List.mem_filterMap.mp he
    obtain ⟨-, rfl⟩ := PipeTag.advance_eq_some hae
    exact h.ops a ha

end InFlight

theorem Inv.calInFlight {s : State} (h : Inv s) :
    InFlight true calLastStage 1 s.cycle (s.calpipe.map CalEntry.tag) :=
  (inFlight_map_iff CalEntry.tag).mpr ⟨h.cal, h.calOps⟩

theorem Inv.lmemInFlight {s : State} (h : Inv s) :
    InFlight false lmemLastStage 1 s.cycle (s.lmempipe.map LmemEntry.tag) :=
  (inFlight_map_iff LmemEntry.tag).mpr ⟨h.lmemStaged, h.lmemOps⟩

/-! ## Issue -/

theorem pushCal_eq_next {i : Instr} {ann : Bool} {s t : State} (h : pushCal i ann s = .next t) :
    t = { s with calpipe := s.calpipe ++ [{ op := i, ticket := s.cycle, stage := 0, annulled := ann }] } := by
  unfold pushCal at h
  split at h
  · cases h
  · exact (Host.Outcome.next.inj h).symm

theorem pushLmem_eq_next {i : Instr} {ann : Bool} {a : Addr} {s t : State} (h : pushLmem i ann a s = .next t) :
    t = { s with
      lmempipe := s.lmempipe ++
        [{ op := i, ticket := s.cycle, stage := 0, annulled := ann, latch := Latch.fresh a }] } := by
  unfold pushLmem at h
  split at h
  · cases h
  · exact (Host.Outcome.next.inj h).symm

theorem issueStage0_keeps (hi lo : Instr) (a : Addr) (s : State) :
    Keeps outsideStage s (issueStage0 hi lo a s) :=
  (runStage_keeps ..).andThen fun _ => (runStage_keeps ..).andThen fun _ => keeps_next rfl fun h => { h with }

/-- The state after the pushes of an issued word (40_machine.md R161, R162). -/
def withPushed (hi lo : Instr) (a : Addr) (s : State) : State :=
  { s with
    annulNext := false
    calpipe := s.calpipe ++ [{ op := hi, ticket := s.cycle, stage := 0, annulled := s.annulNext }]
    lmempipe := s.lmempipe ++
      [{ op := lo, ticket := s.cycle, stage := 0, annulled := s.annulNext, latch := Latch.fresh a }] }

/-- Issue pushes both entries, and beside that does what a stage can do (40_machine.md R162). -/
theorem issuePair_next {hi lo : Instr} {a : Addr} {s t : State} (h : issuePair hi lo a s = .next t) :
    outsideStage t = outsideStage (withPushed hi lo a s) ∧ (CoreInv s → CoreInv t) := by
  obtain ⟨u, hu, h⟩ := andThen_eq_next h
  obtain rfl := pushCal_eq_next hu
  obtain ⟨v, hv, h⟩ := andThen_eq_next h
  obtain rfl := pushLmem_eq_next hv
  have hk : Keeps outsideStage (withPushed hi lo a s)
      (if s.annulNext then .next (withPushed hi lo a s) else issueStage0 hi lo a (withPushed hi lo a s)) := by
    split
    · exact keeps_self
    · exact issueStage0_keeps ..
  obtain ⟨hview, hcore⟩ := hk.of_next h
  exact ⟨hview, fun hs => hcore { hs with }⟩

theorem issue_eq_next {w : Word} {a : Addr} {s t : State} (h : issue w a s = .next t) :
    ∃ hi lo, decodeWord w = .ok (hi, lo) ∧ issuePair hi lo a s = .next t := by
  unfold issue at h
  split at h
  · cases h
  next hi lo hd => exact ⟨hi, lo, hd, h⟩

/-! ## The shifts -/

/-- `Shift(calpipe)` advances the entries and, beside that, does what stages can do (40_machine.md R163). -/
theorem shiftCalFrom_next {ds : Bool} {es done : List CalEntry} {s t : State}
    (h : shiftCalFrom ds es done s = .next t) :
    t.calpipe.map CalEntry.tag =
        (done.map CalEntry.tag).reverse ++ (es.map CalEntry.tag).filterMap (PipeTag.advance calLastStage) ∧
      outsideStage t = outsideStage { s with calpipe := t.calpipe } ∧ (CoreInv s → CoreInv t) := by
  induction es generalizing done s with
  | nil =>
    cases h
    exact ⟨by simp, rfl, fun h => { h with }⟩
  | cons e es ih =>
    obtain ⟨u, hu, h⟩ := andThen_eq_next h
    have hk : Keeps outsideStage s
        (if e.annulled then .next s else runStage e.op (e.stage + 1) ds (Latch.fresh 0) s) := by
      split
      · exact keeps_self
      · exact runStage_keeps ..
    obtain ⟨hview, hcore⟩ := hk.of_next hu
    obtain ⟨hpipe, hview', hcore'⟩ := ih h
    refine ⟨?_, hview'.trans (congrArg (fun v : State => { v with calpipe := t.calpipe }) hview), hcore' ∘ hcore⟩
    rw [hpipe, List.map_cons, List.filterMap_cons]
    by_cases hlast : e.stage + 1 = calLastStage
    · simp [PipeTag.advance, CalEntry.tag, hlast]
    · simp [PipeTag.advance, CalEntry.tag, hlast]

/-- `Shift(lmempipe)` advances the entries and, beside that, does what stages can do (40_machine.md R163). -/
theorem shiftLmemFrom_next {ds : Bool} {es done : List LmemEntry} {s t : State}
    (h : shiftLmemFrom ds es done s = .next t) :
    t.lmempipe.map LmemEntry.tag =
        (done.map LmemEntry.tag).reverse ++ (es.map LmemEntry.tag).filterMap (PipeTag.advance lmemLastStage) ∧
      outsideStage t = outsideStage { s with lmempipe := t.lmempipe } ∧ t.cur = StageCtx.idle ∧
      (CoreInv s → CoreInv t) := by
  induction es generalizing done s with
  | nil =>
    cases h
    exact ⟨by simp, rfl, rfl, fun h => { h with }⟩
  | cons e es ih =>
    obtain ⟨u, hu, h⟩ := andThen_eq_next h
    have hk : Keeps outsideStage s
        (if e.annulled then .next { s with cur := { s.cur with latch := e.latch } }
          else runStage e.op (e.stage + 1) ds e.latch s) := by
      split
      · exact keeps_next rfl fun h => { h with }
      · exact runStage_keeps ..
    obtain ⟨hview, hcore⟩ := hk.of_next hu
    obtain ⟨hpipe, hview', hcur, hcore'⟩ := ih h
    refine ⟨?_, hview'.trans (congrArg (fun v : State => { v with lmempipe := t.lmempipe }) hview), hcur,
      hcore' ∘ hcore⟩
    rw [hpipe, List.map_cons, List.filterMap_cons]
    by_cases hlast : e.stage + 1 = lmemLastStage
    · simp [PipeTag.advance, LmemEntry.tag, hlast]
    · simp [PipeTag.advance, LmemEntry.tag, hlast]

/-- `u` is a state that both shifts of a step can lead to from `s` (40_machine.md R163, R181). -/
structure Shifted (s u : State) : Prop where
  cal : u.calpipe.map CalEntry.tag = (s.calpipe.map CalEntry.tag).filterMap (PipeTag.advance calLastStage)
  lmem : u.lmempipe.map LmemEntry.tag = (s.lmempipe.map LmemEntry.tag).filterMap (PipeTag.advance lmemLastStage)
  outside : outsideStage u = outsideStage { s with calpipe := u.calpipe, lmempipe := u.lmempipe }
  cur : u.cur = StageCtx.idle
  coreInv : CoreInv s → CoreInv u

/-- Phases 2 to 6 are the two shifts and the end of the step (40_machine.md R181). -/
theorem runPhases_eq_next {mode : Mode} {update ds : Bool} {pc0 : Addr} {s t : State}
    (h : runPhases mode update ds pc0 s = .next t) :
    ∃ u, Shifted s u ∧ finishStep mode update ds pc0 u = .next t := by
  obtain ⟨v, hv, h⟩ := andThen_eq_next h
  obtain ⟨u, hu, h⟩ := andThen_eq_next h
  obtain ⟨hcal, hviewv, hcorev⟩ := shiftCalFrom_next hv
  obtain ⟨hlmem, hviewu, hcur, hcoreu⟩ := shiftLmemFrom_next hu
  have hcalu : u.calpipe = v.calpipe := (congrArg State.calpipe hviewu :)
  have hlmemv : v.lmempipe = s.lmempipe := (congrArg State.lmempipe hviewv :)
  refine ⟨u, ⟨by rw [hcalu]; exact hcal, by rw [hlmem, hlmemv]; rfl, ?_, hcur, hcoreu ∘ hcorev⟩, h⟩
  rw [hcalu]
  exact hviewu.trans (congrArg (fun x : State => { x with lmempipe := u.lmempipe }) hviewv)

end Sys2Proof.Machine
end

section
/-! What a step can do, said once (40_machine.md R180 to R186), and that it keeps `Inv`. -/

namespace Sys2Proof.Machine

/-! ## The end of a step -/

/-- The state with the elements blanked that the commit phase, the PC update and the latch can change. -/
def outsideFinish (s : State) : State := outsidePcUpdate (outsideCommit s)

/-- The end of a step counts the cycle; beside that it does what the PC update and the latch can do after the commit
phase (40_machine.md R181). -/
theorem finishStep_next {mode : Mode} {update ds : Bool} {pc0 : Addr} {s t : State}
    (h : finishStep mode update ds pc0 s = .next t) :
    outsidePcUpdate t = outsidePcUpdate (tick (commitPhase s)) ∧ t.xferReq = none ∧
      (CoreInv (commitPhase s) → CoreInv t) := by
  obtain ⟨u, hu, h⟩ := andThen_eq_next h
  obtain ⟨v, hv, h⟩ := andThen_eq_next h
  cases h
  have hk : Keeps outsidePcUpdate (commitPhase s)
      (if update || ((commitPhase s).xferPending.isSome && mode != .draining) then pcUpdate pc0 mode (commitPhase s)
        else .next (commitPhase s)) := by
    split
    · exact pcUpdate_keeps ..
    · exact keeps_self
  obtain ⟨hviewu, hcoreu⟩ := hk.of_next hu
  obtain ⟨hviewv, hcorev⟩ := (latchXfer_keeps ..).of_next hv
  exact ⟨congrArg tick (hviewv.trans hviewu), (latchXfer_xferReq hv :), fun hc => { hcorev (hcoreu hc) with }⟩

theorem finishStep_outside {mode : Mode} {update ds : Bool} {pc0 : Addr} {s t : State}
    (h : finishStep mode update ds pc0 s = .next t) : outsideFinish t = outsideFinish (tick s) :=
  (congrArg outsideCommit (finishStep_next h).1).trans
    (congrArg (fun u => outsidePcUpdate (tick u)) (commitPhase_outside s))

/-- Phases 2 to 6 count one cycle and keep the parameters and instruction memory (40_machine.md R181). -/
theorem runPhases_frame {mode : Mode} {update ds : Bool} {pc0 : Addr} {s t : State}
    (h : runPhases mode update ds pc0 s = .next t) :
    t.params = s.params ∧ t.cycle = s.cycle + 1 ∧ t.iram = s.iram := by
  obtain ⟨u, hs, hf⟩ := runPhases_eq_next h
  have hview := finishStep_outside hf
  have hcycle : u.cycle = s.cycle := (congrArg State.cycle hs.outside :)
  exact ⟨(congrArg State.params hview :).trans (congrArg State.params hs.outside :),
    (congrArg State.cycle hview :).trans (congrArg (· + 1) hcycle :),
    (congrArg State.iram hview :).trans (congrArg State.iram hs.outside :)⟩

/-! ## The dispatch -/

/-- The states that the dispatch of a step can lead to, each with the mode, `update_pc` and `delay_slot` that the later
phases run with (40_machine.md R182 to R184). -/
inductive Dispatched (s : State) : Mode → Bool → Bool → State → Prop
  | drain (hmode : modeOf s = .draining) : Dispatched s .draining false false (drainDispatch s)
  | offEnd (hmode : modeOf s = .running) (hpc : s.params.iramWords ≤ s.pc.toNat) :
      Dispatched s .running false s.xferPending.isSome (clearRun s)
  | fetch (hmode : modeOf s = .running) (hpc : s.pc.toNat < s.params.iramWords) {u : State}
      (hissue : issue (Memory.read s.iram s.pc.toNat) s.pc s = .next u) :
      Dispatched s .running true s.xferPending.isSome u
  | idle (hmode : modeOf s = .idle) (hfifo : s.fifo = []) : Dispatched s .idle false s.xferPending.isSome s
  | inject (hmode : modeOf s = .idle) {w : Word} {rest : List FifoEntry} (hfifo : s.fifo = .exec w :: rest) {u : State}
      (hissue : issue w s.pc { s with fifo := rest } = .next u) : Dispatched s .idle false s.xferPending.isSome u

/-- A pre-load step from `s` to `t` (40_machine.md R186). -/
def Preloads (s t : State) : Prop :=
  modeOf s = .idle ∧ ∃ a w rest, s.fifo = .preload a w :: rest ∧
    t = { s with fifo := rest, iram := Memory.write s.iram a.toNat w }

/-- A step is a pre-load, or a dispatch with the phases after it (40_machine.md R181, R186). -/
theorem clockStep_eq_next {s t : State} (h : clockStep s = .next t) :
    Preloads s t ∨
      ∃ mode update ds u, Dispatched s mode update ds u ∧ runPhases mode update ds s.pc u = .next t := by
  unfold clockStep at h
  split at h
  next hmode => exact .inr ⟨_, _, _, _, .drain hmode, h⟩
  next hmode =>
    unfold runningStep at h
    split at h
    next hpc => exact .inr ⟨_, _, _, _, .offEnd hmode hpc, h⟩
    next hpc =>
      obtain ⟨u, hissue, h⟩ := andThen_eq_next h
      exact .inr ⟨_, _, _, _, .fetch hmode (Nat.lt_of_not_le hpc) hissue, h⟩
  next hmode =>
    unfold idleStep at h
    split at h
    next hfifo => exact .inr ⟨_, _, _, _, .idle hmode hfifo, h⟩
    next a w rest hfifo => exact .inl ⟨hmode, a, w, rest, hfifo, (Host.Outcome.next.inj h).symm⟩
    next w rest hfifo =>
      split at h
      · cases h
      · obtain ⟨u, hissue, h⟩ := andThen_eq_next h
        exact .inr ⟨_, _, _, _, .inject hmode hfifo hissue, h⟩

/-- A step that goes on is that of a state without a fault and with parameters within their bounds. -/
theorem step_eq_next {s t : State} (h : step s = .next t) :
    s.fault = none ∧ s.params.ok = true ∧ clockStep s = .next t := by
  unfold step checkedStep at h
  split at h
  · cases h
  next hfault =>
    split at h
    next hok => exact ⟨hfault, hok, h⟩
    · cases h

/-- Issue keeps the parameters, the counter and instruction memory. -/
theorem issue_frame {w : Word} {a : Addr} {s t : State} (h : issue w a s = .next t) :
    t.params = s.params ∧ t.cycle = s.cycle ∧ t.iram = s.iram := by
  obtain ⟨hi, lo, -, h⟩ := issue_eq_next h
  have hview := (issuePair_next h).1
  exact ⟨(congrArg State.params hview :), (congrArg State.cycle hview :), (congrArg State.iram hview :)⟩

theorem drainDispatch_eq (s : State) :
    drainDispatch s = { s with status := (drainDispatch s).status, drain := (drainDispatch s).drain } := by
  unfold drainDispatch
  dsimp only
  split
  · split <;> rfl
  · rfl

/-- The dispatch keeps the parameters, the counter and instruction memory. -/
theorem Dispatched.frame {mode : Mode} {update ds : Bool} {s u : State} (h : Dispatched s mode update ds u) :
    u.params = s.params ∧ u.cycle = s.cycle ∧ u.iram = s.iram := by
  cases h with
  | drain => rw [drainDispatch_eq]; exact ⟨rfl, rfl, rfl⟩
  | offEnd => exact ⟨rfl, rfl, rfl⟩
  | fetch _ _ hissue => exact issue_frame hissue
  | idle => exact ⟨rfl, rfl, rfl⟩
  | inject _ _ hissue => exact (issue_frame hissue :)

/-! ## The invariant between the phases -/

/-- What holds between the phases of a step, whatever stage the entries in flight are in. -/
structure PhaseInv (s : State) : Prop extends CoreInv s, FlagsInv s where
  noFault : s.fault = none
  iram : MemoryIn s.params.iramWords s.iram
  fifo : s.fifo.length ≤ s.params.fifoMaxSize ∧
    ∀ a w, FifoEntry.preload a w ∈ s.fifo → a.toNat < s.params.iramWords

/-- The elements that `PhaseInv` reads beside those of `CoreInv`. -/
def phaseView (s : State) :=
  (s.params, s.status, s.fcsr, s.fault, s.iram, s.fifo)

theorem PhaseInv.of_view {s t : State} (h : PhaseInv s) (hc : CoreInv t) (hv : phaseView t = phaseView s) :
    PhaseInv t := by
  simp only [phaseView, Prod.mk.injEq] at hv
  obtain ⟨hparams, hstatus, hfcsr, hfault, hiram, hfifo⟩ := hv
  exact {
    toCoreInv := hc
    status := hstatus ▸ h.status
    fcsr := hfcsr ▸ h.fcsr
    noFault := hfault ▸ h.noFault
    iram := by rw [hparams, hiram]; exact h.iram
    fifo := by rw [hparams, hfifo]; exact h.fifo }

theorem Inv.phaseInv {s : State} (h : Inv s) : PhaseInv s := { h with }

theorem PhaseInv.commitPhase {s : State} (h : PhaseInv s) : PhaseInv (commitPhase s) := by
  have hview := commitPhase_outside s
  have hparams : (Machine.commitPhase s).params = s.params := (congrArg State.params hview :)
  have hiram : (Machine.commitPhase s).iram = s.iram := (congrArg State.iram hview :)
  have hfifo : (Machine.commitPhase s).fifo = s.fifo := (congrArg State.fifo hview :)
  exact {
    toCoreInv := h.toCoreInv.commitPhase
    toFlagsInv := h.toFlagsInv.commitPhase
    noFault := (congrArg State.fault hview :).trans h.noFault
    iram := by rw [hparams, hiram]; exact h.iram
    fifo := by rw [hparams, hfifo]; exact h.fifo }

/-- Phases 2 to 6 lead to a state of the invariant (40_machine.md R181). -/
theorem runPhases_inv {mode : Mode} {update ds : Bool} {pc0 : Addr} {s t : State} (hp : PhaseInv s)
    (hcal : InFlight true calLastStage 0 s.cycle (s.calpipe.map CalEntry.tag))
    (hlmem : InFlight false lmemLastStage 0 s.cycle (s.lmempipe.map LmemEntry.tag))
    (h : runPhases mode update ds pc0 s = .next t) : Inv t := by
  have ⟨_, hcycle, _⟩ := runPhases_frame h
  obtain ⟨u, hs, hf⟩ := runPhases_eq_next h
  obtain ⟨hview, hreq, hcore⟩ := finishStep_next hf
  have hshift : PhaseInv u := hp.of_view (hs.coreInv hp.toCoreInv) (congrArg phaseView hs.outside :)
  have hu : PhaseInv (commitPhase u) := hshift.commitPhase
  have ht : PhaseInv t := hu.of_view (hcore hu.toCoreInv) (congrArg phaseView hview :)
  have hfin := finishStep_outside hf
  have hcalt : t.calpipe = u.calpipe := (congrArg State.calpipe hfin :)
  have hlmemt : t.lmempipe = u.lmempipe := (congrArg State.lmempipe hfin :)
  have hcal' : InFlight true calLastStage 1 t.cycle (t.calpipe.map CalEntry.tag) := by
    rw [hcycle, hcalt, hs.cal]
    exact hcal.shift
  have hlmem' : InFlight false lmemLastStage 1 t.cycle (t.lmempipe.map LmemEntry.tag) := by
    rw [hcycle, hlmemt, hs.lmem]
    exact hlmem.shift
  obtain ⟨hcalStaged, hcalOps⟩ := (inFlight_map_iff CalEntry.tag).mp hcal'
  obtain ⟨hlmemStaged, hlmemOps⟩ := (inFlight_map_iff LmemEntry.tag).mp hlmem'
  exact { ht with
    noRequest := hreq
    cur := (congrArg State.cur hfin :).trans hs.cur
    cal := hcalStaged
    calOps := hcalOps
    lmemStaged := hlmemStaged
    lmemOps := hlmemOps }

/-! ## The dispatch keeps the invariant -/

theorem modeOf_eq_draining {s : State} (h : modeOf s = .draining) : s.drain.kind ≠ .none := by
  intro hk
  unfold modeOf at h
  rw [if_neg (not_not_intro hk)] at h
  split at h <;> cases h

/-- Clearing RUN clears no bit that the invariant wants set. -/
theorem PhaseInv.clearRun {s : State} (h : PhaseInv s) : PhaseInv (clearRun s) :=
  { h with
    toCoreInv := { h.toCoreInv with }
    status := by
      show s.status &&& 0xFFFFFFFE &&& statusReserved = 0
      rw [BitVec.and_assoc, BitVec.and_comm 0xFFFFFFFE, ← BitVec.and_assoc, h.status]
      rfl }

theorem PhaseInv.withDrain {s : State} (h : PhaseInv s) {d : Drain}
    (hd : (d.kind = .none ↔ d.count = 0) ∧ d.count ≤ drainCycles) :
    PhaseInv { s with drain := d } := h.of_view { h.toCoreInv with drain := hd } rfl

/-- The drain counts down to its end (40_machine.md R184). -/
theorem PhaseInv.drainDispatch {s : State} (h : PhaseInv s) (hk : s.drain.kind ≠ .none) :
    PhaseInv (drainDispatch s) := by
  unfold Machine.drainDispatch
  dsimp only
  split
  · split
    · exact h.clearRun.withDrain ⟨iff_of_true rfl rfl, Nat.zero_le _⟩
    · exact h.withDrain ⟨iff_of_true rfl rfl, Nat.zero_le _⟩
  next hcount => exact h.withDrain ⟨iff_of_false hk hcount, (Nat.sub_le ..).trans h.drain.2⟩

/-- Issue keeps the invariant of the phases and puts the two halves of a valid word in flight (40_machine.md R162). -/
theorem issue_inv {w : Word} {a : Addr} {s u : State} (hp : PhaseInv s)
    (hcal : InFlight true calLastStage 1 s.cycle (s.calpipe.map CalEntry.tag))
    (hlmem : InFlight false lmemLastStage 1 s.cycle (s.lmempipe.map LmemEntry.tag)) (h : issue w a s = .next u) :
    PhaseInv u ∧ InFlight true calLastStage 0 u.cycle (u.calpipe.map CalEntry.tag) ∧
      InFlight false lmemLastStage 0 u.cycle (u.lmempipe.map LmemEntry.tag) := by
  obtain ⟨hi, lo, hdec, h⟩ := issue_eq_next h
  obtain ⟨hdhi, hdlo⟩ := decodeWord_eq_ok hdec
  obtain ⟨hview, hcore⟩ := issuePair_next h
  have hcycle : u.cycle = s.cycle := (congrArg State.cycle hview :)
  have hcalu : u.calpipe = (withPushed hi lo a s).calpipe := (congrArg State.calpipe hview :)
  have hlmemu : u.lmempipe = (withPushed hi lo a s).lmempipe := (congrArg State.lmempipe hview :)
  refine ⟨hp.of_view (hcore hp.toCoreInv) (congrArg phaseView hview :), ?_, ?_⟩
  · rw [hcycle, hcalu, withPushed, List.map_append]
    exact hcal.issue (by decide) (decodeHi_wellFormed hdhi)
  · rw [hcycle, hlmemu, withPushed, List.map_append]
    exact hlmem.issue (by decide) (decodeLo_wellFormed hdlo)

theorem Dispatched.inv {mode : Mode} {update ds : Bool} {s u : State} (h : Dispatched s mode update ds u) (hs : Inv s) :
    PhaseInv u ∧ InFlight true calLastStage 0 u.cycle (u.calpipe.map CalEntry.tag) ∧
      InFlight false lmemLastStage 0 u.cycle (u.lmempipe.map LmemEntry.tag) := by
  cases h with
  | drain hmode =>
    refine ⟨hs.phaseInv.drainDispatch (modeOf_eq_draining hmode), ?_⟩
    rw [drainDispatch_eq]
    exact ⟨hs.calInFlight.noIssue, hs.lmemInFlight.noIssue⟩
  | offEnd => exact ⟨hs.phaseInv.clearRun, hs.calInFlight.noIssue, hs.lmemInFlight.noIssue⟩
  | fetch _ _ hissue => exact issue_inv hs.phaseInv hs.calInFlight hs.lmemInFlight hissue
  | idle => exact ⟨hs.phaseInv, hs.calInFlight.noIssue, hs.lmemInFlight.noIssue⟩
  | @inject _ w rest hfifo _ hissue =>
    obtain ⟨hlen, hmem⟩ := hs.fifo
    rw [hfifo] at hlen hmem
    have hp : PhaseInv { s with fifo := rest } :=
      { hs.phaseInv with
        toCoreInv := { hs.toCoreInv with }
        toFlagsInv := ⟨hs.status, hs.fcsr⟩
        fifo := ⟨Nat.le_of_succ_le hlen, fun a w h => hmem a w (List.mem_cons_of_mem _ h)⟩ }
    exact issue_inv hp hs.calInFlight hs.lmemInFlight hissue

/-- A pre-load writes a word that exists (20_memory.md R70, R75; 40_machine.md R186). -/
theorem Preloads.inv {s t : State} (h : Preloads s t) (hs : Inv s) : Inv t := by
  obtain ⟨-, a, w, rest, hfifo, rfl⟩ := h
  obtain ⟨hlen, hmem⟩ := hs.fifo
  rw [hfifo] at hlen hmem
  exact { hs with
    toCoreInv := { hs.toCoreInv with }
    iram := write_in hs.iram (hmem a w List.mem_cons_self) w
    fifo := ⟨Nat.le_of_succ_le hlen, fun a w h => hmem a w (List.mem_cons_of_mem _ h)⟩ }

/-- The invariant is kept by every step. -/
theorem Inv.step {s t : State} (hs : Inv s) (h : step s = .next t) : Inv t := by
  obtain ⟨-, -, h⟩ := step_eq_next h
  rcases clockStep_eq_next h with hpre | ⟨mode, update, ds, u, hd, hrun⟩
  · exact hpre.inv hs
  · obtain ⟨hp, hcal, hlmem⟩ := hd.inv hs
    exact runPhases_inv hp hcal hlmem hrun

end Sys2Proof.Machine

open Sys2Proof.Machine

/-- Settles O13: the dispatch keeps `PhaseInv` and the order of the pipelines, and the later phases restore `Inv`. -/
theorem stepKeepsInvariant : Obligations.StepKeepsInvariant := by
  unfold Obligations.StepKeepsInvariant
  intro s t hs h
  exact hs.step h

/-- Settles O19: phases 2 to 6 count one cycle; the only other step is the pre-load. -/
theorem stepCountsCyclesAndKeepsIram : Obligations.StepCountsCyclesAndKeepsIram := by
  unfold Obligations.StepCountsCyclesAndKeepsIram
  intro s t h
  obtain ⟨-, -, h⟩ := step_eq_next h
  rcases clockStep_eq_next h with hpre | ⟨mode, update, ds, u, hd, hrun⟩
  · refine ⟨?_, .inr hpre⟩
    obtain ⟨-, a, w, rest, -, rfl⟩ := hpre
    rfl
  · obtain ⟨hparams, hcycle, hiram⟩ := runPhases_frame hrun
    obtain ⟨hparams', hcycle', hiram'⟩ := hd.frame
    exact ⟨hparams.trans hparams', .inl ⟨by rw [hcycle, hcycle'], hiram.trans hiram'⟩⟩

end

section
/-! How STATUS is read, and which of its bits a write changes (10_state.md R31; 60_exceptions.md R381). -/

namespace Sys2Proof.Machine

/-- The computed bits 1 and 2 of a read of STATUS, and the stored bits beside them (10_state.md R31). -/
theorem getLsbD_statusValue (x : BitVec 32) (s : State) {i : Nat} (hi : i < 32) :
    (statusValue x s).getLsbD i =
      if i = 1 then s.fifo.isEmpty else if i = 2 then decide (s.drain.kind ≠ .none) else x.getLsbD i := by
  have hmask : ∀ i < 32, (0xFFFFFFF9 : BitVec 32).getLsbD i = decide (i ≠ 1 ∧ i ≠ 2) := by decide
  have htwo : ∀ i < 32, (2 : BitVec 32).getLsbD i = decide (i = 1) := by decide
  have hfour : ∀ i < 32, (4 : BitVec 32).getLsbD i = decide (i = 2) := by decide
  have hempty : (if s.fifo.isEmpty then (2 : BitVec 32) else 0).getLsbD i = (s.fifo.isEmpty && decide (i = 1)) := by
    cases s.fifo.isEmpty
    · exact BitVec.getLsbD_zero
    · exact htwo i hi
  have hdrain : (if s.drain.kind = .none then (0 : BitVec 32) else 4).getLsbD i =
      (decide (s.drain.kind ≠ .none) && decide (i = 2)) := by
    by_cases hk : s.drain.kind = .none
    · simp [hk]
    · rw [if_neg hk, hfour i hi]
      simp [hk]
  rw [statusValue, BitVec.getLsbD_or, BitVec.getLsbD_or, BitVec.getLsbD_and, hmask i hi, hempty, hdrain]
  by_cases h1 : i = 1
  · simp [h1]
  · by_cases h2 : i = 2 <;> simp [h1, h2]

/-- The bits of STATUS that a write of the core can change. -/
theorem getLsbD_writeBits_core : ∀ i < 32, (writeBits .status .core).getLsbD i = true ↔ 3 ≤ i ∧ i ≤ 13 := by decide

/-- The bits of STATUS that a write of the host can change. -/
theorem getLsbD_writeBits_host :
    ∀ i < 32, (writeBits .status .host).getLsbD i = true ↔ i = 0 ∨ (3 ≤ i ∧ i ≤ 13) := by decide

/-- A core write changes bits 13:3 of STATUS under its mask (10_state.md R31). -/
theorem getLsbD_commitValue_status (value mask : Word) (s : State) {i : Nat} (hi : i < 32) :
    (commitValue .status value mask .core s).status.getLsbD i =
      if (3 ≤ i ∧ i ≤ 13) ∧ mask.getLsbD i = true then value.getLsbD i else s.status.getLsbD i := by
  have h := getLsbD_merge32 s.status value mask (writeBits .status .core) hi
  simp only [getLsbD_writeBits_core i hi] at h
  exact h

/-- A host write changes bits 0 and 13:3 of STATUS under its mask (60_exceptions.md R381). -/
theorem getLsbD_hostRegWrite_status (value mask : Word) (o : Origin) (s : State) {i : Nat} (hi : i < 32) :
    (hostRegWrite .status value mask o s).status.getLsbD i =
      if (i = 0 ∨ (3 ≤ i ∧ i ≤ 13)) ∧ mask.getLsbD i = true then value.getLsbD i else s.status.getLsbD i := by
  have h := getLsbD_merge32 s.status value mask (writeBits .status .host) hi
  simp only [getLsbD_writeBits_host i hi] at h
  exact h

end Sys2Proof.Machine

open Sys2Proof.Machine

/-- Settles O57: the three reads are `statusValue` of the stored or the bypassed bits; each bit by the lemmas above. -/
theorem statusAccess : Obligations.StatusAccess := by
  unfold Obligations.StatusAccess
  intro s value mask o sec
  refine ⟨rfl, rfl, rfl, fun i hi => ⟨fun x => getLsbD_statusValue x s hi, ?_, ?_⟩⟩
  · exact getLsbD_commitValue_status value mask s hi
  · exact getLsbD_hostRegWrite_status value mask o s hi

end

section
/-! The state after reset: it meets the invariant, it is idle, and a clock only counts (10_state.md R60;
70_reset_and_hazards.md R391). -/

namespace Sys2Proof.Machine

theorem running_zero (p : Params) : running (State.zero p) = false := BitVec.getLsbD_zero

theorem modeOf_zero (p : Params) : modeOf (State.zero p) = .idle := by
  unfold modeOf
  rw [running_zero]
  rfl

/-- Every slot of the queue is empty after reset. -/
theorem slot_zero (p : Params) (k : Nat) : slot k (State.zero p) = [] := by
  unfold slot State.zero
  rw [List.getD_eq_getElem?_getD, List.getElem?_replicate]
  split <;> rfl

theorem memoryIn_nil (bound : Nat) : MemoryIn bound [] :=
  ⟨⟨List.Pairwise.nil, fun _ h => absurd h List.not_mem_nil⟩, fun _ h => absurd h List.not_mem_nil⟩

theorem staged_nil (last cycle : Nat) : Staged last cycle [] :=
  ⟨List.Pairwise.nil, fun _ h => absurd h List.not_mem_nil⟩

/-- The zero state of every parameter set within its bounds meets the invariant (10_state.md R60). -/
theorem zero_inv {p : Params} (hp : p.ok = true) : Inv (State.zero p) where
  params := hp
  lmem sec := by
    have hnil : (State.zero p).lmem[sec] = [] := Vector.getElem_replicate _
    rw [hnil]
    exact memoryIn_nil _
  loops := ⟨List.length_replicate, Nat.zero_le _⟩
  calls := ⟨List.length_replicate, Nat.zero_le _⟩
  queueLength := List.length_replicate
  slotBound sl hsl n _ := by
    obtain rfl := List.eq_of_mem_replicate hsl
    exact Nat.zero_le n
  coreWrites sl hsl w hw := by
    obtain rfl := List.eq_of_mem_replicate hsl
    cases hw
  drain := ⟨iff_of_true rfl rfl, Nat.zero_le _⟩
  pop h := absurd h Bool.false_ne_true
  noFault := rfl
  noRequest := rfl
  cur := rfl
  iram := memoryIn_nil _
  status := BitVec.zero_and
  fcsr sec := by
    have hzero : (State.zero p).fcsr[sec] = 0 := Vector.getElem_replicate _
    rw [hzero]
    rfl
  fifo := ⟨Nat.zero_le _, fun _ _ h => absurd h List.not_mem_nil⟩
  cal := staged_nil _ _
  calOps _ h := absurd h List.not_mem_nil
  lmemStaged := staged_nil _ _
  lmemOps _ h := absurd h List.not_mem_nil

/-- The commit phase of an empty slot clears the log, which is empty after reset. -/
theorem commitPhase_zero (p : Params) : commitPhase (State.zero p) = State.zero p := by
  have hq : (State.zero p).queue.set ((State.zero p).cycle % (State.zero p).params.queueDepth) [] =
      (State.zero p).queue := List.set_replicate_self
  rw [commitPhase_eq, slot_zero, hq]
  rfl

/-- Without a latched or requested transfer, the end of a step that does not update the PC commits and counts. -/
theorem finishStep_of_noTransfer {s : State} (hpend : (commitPhase s).xferPending = none)
    (hreq : (commitPhase s).xferReq = none) (mode : Mode) (ds : Bool) (pc0 : Addr) :
    finishStep mode false ds pc0 s = .next (tick (commitPhase s)) := by
  unfold finishStep
  dsimp only
  rw [hpend]
  show andThen (latchXfer ds (commitPhase s)) _ = _
  unfold latchXfer
  rw [hreq]
  rfl

/-- A clock after reset shifts empty pipelines, commits an empty slot and counts (70_reset_and_hazards.md R391). -/
theorem step_zero {p : Params} (hp : p.ok = true) : step (State.zero p) = .next { State.zero p with cycle := 1 } := by
  have hstep : step (State.zero p) = clockStep (State.zero p) := if_pos hp
  have hclock : clockStep (State.zero p) = finishStep .idle false false 0 (State.zero p) := by
    unfold clockStep
    rw [modeOf_zero]
    rfl
  rw [hstep, hclock, finishStep_of_noTransfer (by rw [commitPhase_zero]; rfl) (by rw [commitPhase_zero]; rfl),
    commitPhase_zero]
  rfl

end Sys2Proof.Machine

open Sys2Proof.Machine

/-- Settles O11: the zero state is idle, and its step is the end of a step on empty pipelines. -/
theorem resetIsIdleAndTicks : Obligations.ResetIsIdleAndTicks := by
  unfold Obligations.ResetIsIdleAndTicks
  intro p hp s
  have hempty : (statusValue s.status s).getLsbD 1 = true := getLsbD_statusValue _ _ (by decide)
  exact ⟨modeOf_zero p, running_zero p, rfl, rfl, hempty, rfl, rfl, rfl, slot_zero p, step_zero hp⟩

/-- Settles O12, as the case of the reference parameters. -/
theorem resetMeetsInvariant : Obligations.ResetMeetsInvariant := zero_inv (by decide)

end

section
/-! A step that fetches beyond instruction memory (20_memory.md R71; 40_machine.md R182): it issues nothing. And what
the phases after the dispatch do to PC, RUN and the entries in flight. -/

namespace Sys2Proof.Machine

/-! ## Commits change neither PC nor RUN -/

/-- A write under a mask without bits changes nothing. -/
theorem merge_zero (old v : Word) : merge old v 0#64 = old := by
  rw [merge, BitVec.not_zero, BitVec.and_allOnes, BitVec.and_zero, BitVec.or_zero]

/-- No write in the queue changes PC (10_state.md R29). -/
theorem commitWrite_pc (w : PendingWrite) (s : State) : (commitWrite w s).pc = s.pc := by
  unfold commitWrite commitValue
  cases w.reg with
  | pc =>
    show (merge (s.pc.setWidth 64) w.value (w.mask &&& 0#64)).setWidth 16 = s.pc
    rw [BitVec.and_zero, merge_zero, BitVec.setWidth_setWidth_of_le _ (by decide), BitVec.setWidth_eq]
  | _ => rfl

theorem commitWrites_pc (ws : List PendingWrite) (s : State) : (commitWrites ws s).pc = s.pc := by
  induction ws generalizing s with
  | nil => rfl
  | cons w ws ih => exact (ih _).trans (commitWrite_pc w s)

theorem commitPhase_pc (s : State) : (commitPhase s).pc = s.pc := commitWrites_pc _ { s with samelog := [] }

/-- RUN is not writable by the core (10_state.md R31). -/
theorem commitWrite_running {w : PendingWrite} (hw : w.origin = .core) (s : State) :
    running (commitWrite w s) = running s := by
  unfold commitWrite
  rw [hw]
  cases w.reg with
  | status => exact getLsbD_commitValue_status w.value w.mask s (i := 0) (by decide)
  | _ => rfl

theorem commitWrites_running {ws : List PendingWrite} (hws : ∀ w ∈ ws, w.origin = .core) (s : State) :
    running (commitWrites ws s) = running s := by
  induction ws generalizing s with
  | nil => rfl
  | cons w ws ih =>
    have ⟨hw, hws⟩ := List.forall_mem_cons.mp hws
    exact (ih hws _).trans (commitWrite_running hw s)

/-- Every pending write is the core's, so the commit phase leaves RUN (40_machine.md R153, R154). -/
theorem CoreInv.commitPhase_running {s : State} (h : CoreInv s) : running (Machine.commitPhase s) = running s := by
  have hslot : slot (s.cycle % s.params.queueDepth) s ∈ s.queue := slot_mem (h.slotIndex_lt 0 0)
  exact commitWrites_running (h.coreWrites _ hslot) { s with samelog := [] }

/-! ## Phases 2 to 6 -/

/-- Phases 2 to 6 leave RUN: only the dispatch clears it (40_machine.md R150, R182, R184). -/
theorem runPhases_running {mode : Mode} {update ds : Bool} {pc0 : Addr} {s t : State} (hs : CoreInv s)
    (h : runPhases mode update ds pc0 s = .next t) : running t = running s := by
  obtain ⟨u, hshift, hf⟩ := runPhases_eq_next h
  obtain ⟨hview, -⟩ := finishStep_next hf
  calc running t = running (commitPhase u) := (congrArg running hview :)
    _ = running u := (hshift.coreInv hs).commitPhase_running
    _ = running s := (congrArg running hshift.outside :)

/-- The latch sets no PC (40_machine.md R197). -/
theorem latchXfer_pc {ds : Bool} {s t : State} (h : latchXfer ds s = .next t) : t.pc = s.pc := by
  unfold latchXfer at h
  split at h
  · cases h
    rfl
  split at h
  · cases h
  split at h
  · cases h
  · cases h
    rfl

/-- Without `update_pc` and without a latched transfer there is no PC update (40_machine.md R181). -/
theorem finishStep_pc_of_noUpdate {mode : Mode} {ds : Bool} {pc0 : Addr} {s t : State} (hpend : s.xferPending = none)
    (h : finishStep mode false ds pc0 s = .next t) : t.pc = s.pc := by
  have hpend' : (commitPhase s).xferPending = none := (congrArg State.xferPending (commitPhase_outside s) :).trans hpend
  unfold finishStep at h
  dsimp only at h
  rw [hpend'] at h
  obtain ⟨u, hu, h⟩ := andThen_eq_next (show andThen (latchXfer ds (commitPhase s)) _ = .next t from h)
  cases h
  exact (latchXfer_pc hu :).trans (commitPhase_pc s)

theorem runPhases_pc_of_noUpdate {mode : Mode} {ds : Bool} {pc0 : Addr} {s t : State} (hpend : s.xferPending = none)
    (h : runPhases mode false ds pc0 s = .next t) : t.pc = s.pc := by
  obtain ⟨u, hshift, hf⟩ := runPhases_eq_next h
  have hpendu : u.xferPending = s.xferPending := (congrArg State.xferPending hshift.outside :)
  exact (finishStep_pc_of_noUpdate (hpendu.trans hpend) hf).trans (congrArg State.pc hshift.outside :)

/-! ## Steps that issue nothing -/

/-- The entries that a shift leaves were all issued in earlier cycles, where the step issued none (40_machine.md R161,
R167). -/
theorem InFlight.ticket_lt_of_shift {hi : Bool} {last cycle : Nat} {es : List PipeTag}
    (h : InFlight hi last 1 cycle es) : ∀ e ∈ es.filterMap (PipeTag.advance last), e.ticket < cycle := by
  intro e he
  obtain ⟨a, ha, hae⟩ := List.mem_filterMap.mp he
  obtain ⟨-, rfl⟩ := PipeTag.advance_eq_some hae
  obtain ⟨hsum, hpos, -⟩ := h.staged a ha
  show a.ticket < cycle
  omega

/-- Phases 2 to 6 add no pipeline entry (40_machine.md R163). -/
theorem runPhases_ticket_lt {mode : Mode} {update ds : Bool} {pc0 : Addr} {s t : State}
    (hcal : InFlight true calLastStage 1 s.cycle (s.calpipe.map CalEntry.tag))
    (hlmem : InFlight false lmemLastStage 1 s.cycle (s.lmempipe.map LmemEntry.tag))
    (h : runPhases mode update ds pc0 s = .next t) :
    (∀ e ∈ t.calpipe, e.ticket < s.cycle) ∧ ∀ e ∈ t.lmempipe, e.ticket < s.cycle := by
  obtain ⟨u, hshift, hf⟩ := runPhases_eq_next h
  have hfin := finishStep_outside hf
  have hcalt : t.calpipe = u.calpipe := (congrArg State.calpipe hfin :)
  have hlmemt : t.lmempipe = u.lmempipe := (congrArg State.lmempipe hfin :)
  rw [hcalt, hlmemt]
  exact ⟨List.forall_mem_map.mp (hshift.cal ▸ hcal.ticket_lt_of_shift),
    List.forall_mem_map.mp (hshift.lmem ▸ hlmem.ticket_lt_of_shift)⟩

/-- A step of the mode RUNNING with the PC beyond instruction memory clears RUN and runs phases 2 to 6 without
`update_pc` (20_memory.md R71; 40_machine.md R182). -/
theorem step_offEnd {s t : State} (hmode : modeOf s = .running) (hpc : s.params.iramWords ≤ s.pc.toNat)
    (h : step s = .next t) : runPhases .running false s.xferPending.isSome s.pc (clearRun s) = .next t := by
  obtain ⟨-, -, h⟩ := step_eq_next h
  unfold clockStep at h
  rw [hmode] at h
  exact (if_pos hpc).symm.trans h

theorem running_clearRun (s : State) : running (clearRun s) = false := by
  show (s.status &&& 0xFFFFFFFE).getLsbD 0 = false
  simp

end Sys2Proof.Machine

open Sys2Proof.Machine

/-- Settles O16: the dispatch clears RUN and issues nothing, and phases 2 to 6 leave RUN, add no entry and, without a
latched transfer, leave the PC. -/
theorem runOffEndClearsRun : Obligations.RunOffEndClearsRun := by
  unfold Obligations.RunOffEndClearsRun
  intro s t hs hmode hpc h
  have hrun := step_offEnd hmode hpc h
  have hcore : CoreInv (clearRun s) := hs.phaseInv.clearRun.toCoreInv
  refine ⟨?_, fun hpend => ?_, ?_⟩
  · exact (runPhases_running hcore hrun).trans (running_clearRun s)
  · exact runPhases_pc_of_noUpdate (s := clearRun s) hpend hrun
  · exact runPhases_ticket_lt (s := clearRun s) hs.calInFlight hs.lmemInFlight hrun

end

section
/-! The decoder reads back the word of every well-formed pair (30_encoding.md R100 to R121): in the sum of the two
halves' numbers each opcode stands in its field, and each format reads its operands back. -/

namespace Sys2Proof

theorem hiOpcode_encodeWord {hi lo : Instr} (hhi : hi.isHi = true) (hlo : lo.isHi = false) :
    hiOpcode (encodeWord hi lo) = hi.opcode := by
  have hh := hi_bits hi hhi
  have hl := lo_bits lo hlo
  exact hiOpcode_eq (by omega)

theorem loOpcode_encodeWord {hi lo : Instr} (hhi : hi.isHi = true) (hlo : lo.isHi = false) :
    loOpcode (encodeWord hi lo) = lo.opcode := by
  have hh := hi_bits hi hhi
  have hl := lo_bits lo hlo
  exact loOpcode_eq (by omega)

/-! ## The formats that Laws/Decode leaves out -/

/-- Format H0 reads its instruction back (R107). -/
theorem decodeH0_enc {i : Instr} {x op y : Nat} (hx : x = op * 2 ^ 56 + 0 + y) (hy : y < 2 ^ 32) :
    decodeH0 i (BitVec.ofNat 64 x) = .ok i :=
  ifReserved_ok (res_eq (by omega))

/-- Format L0 reads its instruction back (R116). -/
theorem decodeL0_enc {i : Instr} {x op y : Nat} (hx : x = y + (op * 2 ^ 26 + 0)) (hy : y % 2 ^ 32 = 0) :
    decodeL0 i (BitVec.ofNat 64 x) = .ok i :=
  ifReserved_ok (res_eq (by omega))

/-- Format LA reads its operands back (R110). -/
theorem decodeLA_enc {mk : Fin 8 → BitVec 13 → Instr} (n : Fin 8) (off : BitVec 13) {x op y : Nat}
    (hx : x = y + (op * 2 ^ 26 + (n.val * 2 ^ 13 + off.toNat))) (hy : y % 2 ^ 32 = 0) :
    decodeLA mk (BitVec.ofNat 64 x) = .ok (mk n off) := by
  unfold decodeLA
  rw [idx3_eq (v := n) (by omega), field_eq (v := off) (by omega)]
  exact ifReserved_ok (res_eq (by omega))

/-- Formats LJ and LS read their operand back (R111, R117). -/
theorem decodeLJ_enc {mk : BitVec 16 → Instr} (imm : BitVec 16) {x op y : Nat}
    (hx : x = y + (op * 2 ^ 26 + imm.toNat)) (hy : y % 2 ^ 32 = 0) :
    decodeLJ mk (BitVec.ofNat 64 x) = .ok (mk imm) := by
  unfold decodeLJ
  rw [field_eq (v := imm) (by omega)]
  exact ifReserved_ok (res_eq (by omega))

/-- Format LB reads its operands back (R112). -/
theorem decodeLB_enc {mk : Bool → Fin 8 → Addr → Instr} (all : Bool) (cc : Fin 8) (imm : Addr) {x op y : Nat}
    (hx : x = y + (op * 2 ^ 26 + (all.toNat * 2 ^ 25 + cc.val * 2 ^ 22 + imm.toNat))) (hy : y % 2 ^ 32 = 0) :
    decodeLB mk (BitVec.ofNat 64 x) = .ok (mk all cc imm) := by
  have hall := bool_le all
  unfold decodeLB
  rw [flag_eq (v := all) (by omega), idx3_eq (v := cc) (by omega), field_eq (v := imm) (by omega)]
  exact ifReserved_ok (res_eq (by omega))

/-- Format LG reads its operand back (R113). -/
theorem decodeLG_enc {mk : Fin 16 → Instr} (g : Fin 16) {x op y : Nat}
    (hx : x = y + (op * 2 ^ 26 + g.val * 2 ^ 16)) (hy : y % 2 ^ 32 = 0) :
    decodeLG mk (BitVec.ofNat 64 x) = .ok (mk g) := by
  unfold decodeLG
  rw [idx4_eq (v := g) (by omega)]
  exact ifReserved_ok (by rw [res_eq (by omega), res_eq (by omega)]; rfl)

/-- Format LDO reads its operands back (R114). -/
theorem decodeLDO_enc {mk : Fin 16 → Addr → Instr} (g : Fin 16) (stop : Addr) {x op y : Nat}
    (hx : x = y + (op * 2 ^ 26 + (g.val * 2 ^ 16 + stop.toNat))) (hy : y % 2 ^ 32 = 0) :
    decodeLDO mk (BitVec.ofNat 64 x) = .ok (mk g stop) := by
  unfold decodeLDO
  rw [idx4_eq (v := g) (by omega), field_eq (v := stop) (by omega)]
  exact ifReserved_ok (res_eq (by omega))

/-- Format LDI reads its operands back (R115). -/
theorem decodeLDI_enc {mk : BitVec 10 → Addr → Instr} (count : BitVec 10) (stop : Addr) {x op y : Nat}
    (hx : x = y + (op * 2 ^ 26 + (count.toNat * 2 ^ 16 + stop.toNat))) (hy : y % 2 ^ 32 = 0) :
    decodeLDI mk (BitVec.ofNat 64 x) = .ok (mk count stop) := by
  unfold decodeLDI
  rw [field_eq (v := count) (by omega), field_eq (v := stop) (by omega)]

/-- Format LSI reads its operands back where `SETI` can name the destination (R118, R121). -/
theorem decodeLSI_enc {rd : RegName} {u : Bool} (imm : BitVec 16) {x op y : Nat} (hok : setiOk rd u = true)
    (hx : x = y + (op * 2 ^ 26 + (rd.number * 2 ^ 17 + u.toNat * 2 ^ 16 + imm.toNat))) (hy : y % 2 ^ 32 = 0) :
    decodeLSI (BitVec.ofNat 64 x) = .ok (.seti rd u imm) := by
  have hrd := number_lt rd
  have hu := bool_le u
  unfold decodeLSI
  rw [flag_eq (v := u) (by omega), field_eq (v := imm) (by omega), field_toNat,
    show x % 2 ^ 64 / 2 ^ 17 % 2 ^ 9 = rd.number by omega, ofNumber_number]
  exact if_pos hok

/-- Format LMV reads its operands back where the destination is writable (R119, R121). -/
theorem decodeLMV_enc {rd : RegName} (rs : RegName) (sec : Fin 4) (bc : Bool) {x op y : Nat}
    (hok : rd.writable = true)
    (hx : x = y + (op * 2 ^ 26 + (rd.number * 2 ^ 17 + rs.number * 2 ^ 8 + sec.val * 2 ^ 6 + bc.toNat * 2 ^ 5)))
    (hy : y % 2 ^ 32 = 0) :
    decodeLMV (BitVec.ofNat 64 x) = .ok (.move rd rs sec bc) := by
  have hrd := number_lt rd
  have hrs := number_lt rs
  have hbc := bool_le bc
  unfold decodeLMV
  rw [if_pos (res_eq (by omega)), flag_eq (v := bc) (by omega), idx2_eq (v := sec) (by omega),
    field_toNat, show x % 2 ^ 64 / 2 ^ 17 % 2 ^ 9 = rd.number by omega, ofNumber_number,
    field_toNat, show x % 2 ^ 64 / 2 ^ 8 % 2 ^ 9 = rs.number by omega, ofNumber_number]
  exact if_pos hok

/-! ## The two halves -/

/-- The hi half of an encoded pair decodes to the hi sub-instruction (R126). -/
theorem decodeHi_encodeWord {hi lo : Instr} (hhi : hi.isHi = true) (hlo : lo.isHi = false)
    (hwf : hi.wellFormed = true) : decodeHi (encodeWord hi lo) = .ok hi := by
  obtain ⟨hrest, -⟩ := lo_bits lo hlo
  obtain ⟨-, -, -, hbits, -⟩ := hi_bits hi hhi
  have hword : hi.bits + lo.bits = hi.opcode * 2 ^ 56 + hi.operandBits + lo.bits := by rw [hbits]
  unfold decodeHi
  rw [hiOpcode_encodeWord hhi hlo]
  cases hi <;> simp only [Instr.opcode]
  case hnop => exact decodeH0_enc hword hrest
  case fadd p cc fd fs ft | fmul p cc fd fs ft | fmadd p cc fd fs ft | cmadd p cc fd fs ft | fperm p cc fd fs ft =>
    exact decodeH3_enc p cc fd fs ft hword hrest
  case fcmpeq cc fs ft | fcmplt cc fs ft | fcmple cc fs ft => exact decodeHC_enc cc fs ft hword hrest hwf
  case fsin p cc fd fs | fcos p cc fd fs | frecip p cc fd fs | flog2 p cc fd fs | fexp2 p cc fd fs | fsqrt p cc fd fs =>
    exact decodeH2_enc p cc fd fs hword hrest
  all_goals cases hhi

/-- The lo half of an encoded pair decodes to the lo sub-instruction (R127). -/
theorem decodeLo_encodeWord {hi lo : Instr} (hhi : hi.isHi = true) (hlo : lo.isHi = false)
    (hwf : lo.wellFormed = true) : decodeLo (encodeWord hi lo) = .ok lo := by
  obtain ⟨hrest, -⟩ := hi_bits hi hhi
  obtain ⟨-, -, hbits, -⟩ := lo_bits lo hlo
  have hword : hi.bits + lo.bits = hi.bits + (lo.opcode * 2 ^ 26 + lo.operandBits) := by rw [hbits]
  unfold decodeLo
  rw [loOpcode_encodeWord hhi hlo]
  cases lo <;> simp only [Instr.opcode]
  case lnop | ret | enddo | sync => exact decodeL0_enc hword hrest
  case ld p cc f n off | ldd p cc f n off | st p cc f n off | std p cc f n off =>
    exact decodeLM_enc p cc f n off hword hrest
  case ldm p cc f n | lddm p cc f n | stm p cc f n | stdm p cc f n => exact decodeLP_enc p cc f n hword hrest
  case aupd n off => exact decodeLA_enc n off hword hrest
  case seti rd u imm => exact decodeLSI_enc imm hwf hword hrest
  case move rd rs sec bc => exact decodeLMV_enc rs sec bc hwf hword hrest
  case jump imm | calli imm | stop imm => exact decodeLJ_enc imm hword hrest
  case bcc all cc imm => exact decodeLB_enc all cc imm hword hrest
  case call g => exact decodeLG_enc g hword hrest
  case doLoop g stop => exact decodeLDO_enc g stop hword hrest
  case doi count stop => exact decodeLDI_enc count stop hword hrest
  all_goals cases hlo

/-- The decoder answers the well-formed pair that was encoded (R100, R102). -/
theorem decodeWord_encodeWord {hi lo : Instr} (hhi : hi.isHi = true) (hlo : lo.isHi = false)
    (hwfhi : hi.wellFormed = true) (hwflo : lo.wellFormed = true) :
    decodeWord (encodeWord hi lo) = .ok (hi, lo) := by
  unfold decodeWord
  rw [decodeHi_encodeWord hhi hlo hwfhi, decodeLo_encodeWord hhi hlo hwflo]

end Sys2Proof

open Sys2Proof

/-- Settles O1: both halves of the encoded word are read back, format by format. -/
theorem decodeOfEncodedWord : Obligations.DecodeOfEncodedWord := by
  unfold Obligations.DecodeOfEncodedWord
  intro hi lo hhi hlo hwfhi hwflo
  exact decodeWord_encodeWord hhi hlo hwfhi hwflo

/-- Settles O3: each worked word is the encoding of the well-formed pair that R131 gives for it, so it decodes to that
pair. -/
theorem workedEncodings : Obligations.WorkedEncodings := by
  unfold Obligations.WorkedEncodings
  have hfadd : encodeWord (.fadd false 0 1 2 3) .lnop = 0x0100108300000000 := by decide
  have hfmul : encodeWord (.fmul true 2 4 5 6) (.ld false 0 7 2 0x1FFF) = 0x02A0414604075FFF := by decide
  have hdoi : encodeWord .hnop (.doi 3 0x0012) = 0x0000000058030012 := by decide
  have hmove : encodeWord .hnop (.move (.gpr 1) (.fprHalf 3 true) 2 false) = 0x000000002D020780 := by decide
  rw [← hfadd, ← hfmul, ← hdoi, ← hmove]
  exact ⟨decodeWord_encodeWord rfl rfl rfl rfl, decodeWord_encodeWord rfl rfl rfl rfl,
    decodeWord_encodeWord rfl rfl rfl rfl, decodeWord_encodeWord rfl rfl rfl rfl⟩

end

section
/-! A word that decodes is the word of what it decodes to (30_encoding.md R102, R121, R123): the opcode, the operands
and the reserved bits, which must be 0, fill each half. -/

namespace Sys2Proof

/-! ## A field as a number -/

theorem toNat_field (w : Word) (lo n : Nat) : (field w lo n).toNat = w.toNat / 2 ^ lo % 2 ^ n := by
  simp [field, BitVec.extractLsb'_toNat, Nat.shiftRight_eq_div_pow]

theorem toNat_flag (w : Word) (lo : Nat) : (flag w lo).toNat = w.toNat / 2 ^ lo % 2 ^ 1 := by
  rw [← toNat_field]
  unfold flag
  generalize field w lo 1 = b
  revert b
  decide

theorem val_idx2 (w : Word) (lo : Nat) : (idx2 w lo).val = w.toNat / 2 ^ lo % 2 ^ 2 := toNat_field w lo 2

theorem val_idx3 (w : Word) (lo : Nat) : (idx3 w lo).val = w.toNat / 2 ^ lo % 2 ^ 3 := toNat_field w lo 3

theorem val_idx4 (w : Word) (lo : Nat) : (idx4 w lo).val = w.toNat / 2 ^ lo % 2 ^ 4 := toNat_field w lo 4

theorem val_idx6 (w : Word) (lo : Nat) : (idx6 w lo).val = w.toNat / 2 ^ lo % 2 ^ 6 := toNat_field w lo 6

/-- A reserved field is 0 as a number (R123). -/
theorem reserved_iff {w : Word} {lo n : Nat} : (field w lo n == 0) = true ↔ w.toNat / 2 ^ lo % 2 ^ n = 0 := by
  rw [beq_iff_eq, ← toNat_field, ← BitVec.toNat_inj, BitVec.ofNat_eq_ofNat, BitVec.toNat_zero]

/-- The number that names a register is the number of that register (R121). -/
theorem number_of_ofNumber {n : Nat} {r : RegName} (hn : n < 512) (h : RegName.ofNumber n = some r) :
    r.number = n := by
  have := number_of_fin ⟨n, hn⟩
  simpa [h] using this

theorem number_of_field {w : Word} {lo : Nat} {r : RegName} (h : RegName.ofNumber (field w lo 9).toNat = some r) :
    r.number = w.toNat / 2 ^ lo % 2 ^ 9 :=
  (number_of_ofNumber (field w lo 9).isLt h).trans (toNat_field w lo 9)

/-! ## The operand bits of each format, where the reserved bits are 0 -/

/-- Bits 55:32 of a word, in their place: the operands of the hi half and its reserved bits (R101). -/
def hiOperand (w : Word) : Nat := w.toNat % 2 ^ 56 / 2 ^ 32 * 2 ^ 32

/-- Bits 25:0 of a word: the operands of the lo half and its reserved bits (R101). -/
def loOperand (w : Word) : Nat := w.toNat % 2 ^ 26

variable {w : Word}

theorem encH3_fields (h : (field w 50 2 == 0) = true) :
    encH3 (flag w 55) (idx3 w 52) (idx6 w 44) (idx6 w 38) (idx6 w 32) = hiOperand w := by
  rw [reserved_iff] at h
  simp only [encH3, hiOperand, toNat_flag, val_idx3, val_idx6]
  omega

theorem encH2_fields (h : (field w 50 2 == 0 && field w 32 6 == 0) = true) :
    encH2 (flag w 55) (idx3 w 52) (idx6 w 44) (idx6 w 38) = hiOperand w := by
  simp only [Bool.and_eq_true, reserved_iff] at h
  simp only [encH2, hiOperand, toNat_flag, val_idx3, val_idx6]
  omega

theorem encHC_fields (h : (field w 55 1 == 0 && field w 52 1 == 0 && field w 44 8 == 0) = true) :
    encHC (idx3 w 52) (idx6 w 38) (idx6 w 32) = hiOperand w := by
  simp only [Bool.and_eq_true, reserved_iff] at h
  simp only [encHC, hiOperand, val_idx3, val_idx6]
  omega

theorem hiOperand_of_H0 (h : (field w 32 24 == 0) = true) : 0 = hiOperand w := by
  rw [reserved_iff] at h
  simp only [hiOperand]
  omega

theorem encLM_fields (w : Word) :
    encLM (flag w 25) (idx3 w 22) (idx6 w 16) (idx3 w 13) (field w 0 13) = loOperand w := by
  simp only [encLM, loOperand, toNat_flag, val_idx3, val_idx6, toNat_field]
  omega

theorem encLP_fields (h : (field w 0 13 == 0) = true) :
    encLP (flag w 25) (idx3 w 22) (idx6 w 16) (idx3 w 13) = loOperand w := by
  rw [reserved_iff] at h
  simp only [encLP, loOperand, toNat_flag, val_idx3, val_idx6]
  omega

theorem operandBits_aupd_fields (h : (field w 16 10 == 0) = true) :
    (Instr.aupd (idx3 w 13) (field w 0 13)).operandBits = loOperand w := by
  rw [reserved_iff] at h
  simp only [Instr.operandBits, loOperand, val_idx3, toNat_field]
  omega

/-- Formats LJ and LS (R111, R117). -/
theorem toNat_imm16_field (h : (field w 16 10 == 0) = true) : (field w 0 16).toNat = loOperand w := by
  rw [reserved_iff] at h
  simp only [loOperand, toNat_field]
  omega

theorem operandBits_bcc_fields (h : (field w 16 6 == 0) = true) :
    (Instr.bcc (flag w 25) (idx3 w 22) (field w 0 16)).operandBits = loOperand w := by
  rw [reserved_iff] at h
  simp only [Instr.operandBits, loOperand, toNat_flag, val_idx3, toNat_field]
  omega

theorem operandBits_call_fields (h : (field w 20 6 == 0 && field w 0 16 == 0) = true) :
    (Instr.call (idx4 w 16)).operandBits = loOperand w := by
  simp only [Bool.and_eq_true, reserved_iff] at h
  simp only [Instr.operandBits, loOperand, val_idx4]
  omega

theorem operandBits_doLoop_fields (h : (field w 20 6 == 0) = true) :
    (Instr.doLoop (idx4 w 16) (field w 0 16)).operandBits = loOperand w := by
  rw [reserved_iff] at h
  simp only [Instr.operandBits, loOperand, val_idx4, toNat_field]
  omega

theorem operandBits_doi_fields (w : Word) :
    (Instr.doi (field w 16 10) (field w 0 16)).operandBits = loOperand w := by
  simp only [Instr.operandBits, loOperand, toNat_field]
  omega

theorem loOperand_of_L0 (h : (field w 0 26 == 0) = true) : 0 = loOperand w := by
  rw [reserved_iff] at h
  simp only [loOperand]
  omega

theorem operandBits_of_decodeLSI {i : Instr} (h : decodeLSI w = .ok i) :
    i.opcode = 0x0A ∧ i.operandBits = loOperand w := by
  unfold decodeLSI at h
  split at h
  · cases h
  next rd hrd =>
    split at h
    · obtain rfl := Except.ok.inj h
      refine ⟨rfl, ?_⟩
      simp only [Instr.operandBits, loOperand, number_of_field hrd, toNat_flag, toNat_field]
      omega
    · cases h

theorem operandBits_of_decodeLMV {i : Instr} (h : decodeLMV w = .ok i) :
    i.opcode = 0x0B ∧ i.operandBits = loOperand w := by
  unfold decodeLMV at h
  split at h
  next hres =>
    rw [reserved_iff] at hres
    split at h
    next rd rs hrd hrs =>
      split at h
      · obtain rfl := Except.ok.inj h
        refine ⟨rfl, ?_⟩
        simp only [Instr.operandBits, loOperand, number_of_field hrd, number_of_field hrs, val_idx2, toNat_flag]
        omega
      · cases h
    · cases h
  · cases h

/-! ## The two halves -/

/-- The opcode and the operand bits of a decoded hi half are those of the word (R123, R126). -/
theorem decodeHi_fields {i : Instr} (h : decodeHi w = .ok i) :
    i.opcode = hiOpcode w ∧ i.operandBits = hiOperand w := by
  unfold decodeHi at h
  split at h
  case h_16 => cases h
  all_goals
    obtain ⟨hres, rfl⟩ := ifReserved_eq_ok h
    refine ⟨Eq.symm ‹hiOpcode w = _›, ?_⟩
  case h_1 => exact hiOperand_of_H0 hres
  case h_2 | h_3 | h_4 | h_5 | h_9 => exact encH3_fields hres
  case h_6 | h_7 | h_8 => exact encHC_fields hres
  all_goals exact encH2_fields hres

/-- The opcode and the operand bits of a decoded lo half are those of the word (R123, R127). -/
theorem decodeLo_fields {i : Instr} (h : decodeLo w = .ok i) :
    i.opcode = loOpcode w ∧ i.operandBits = loOperand w := by
  unfold decodeLo at h
  split at h
  case h_23 => cases h
  case h_11 hop =>
    obtain ⟨hseti, hbits⟩ := operandBits_of_decodeLSI h
    exact ⟨hseti.trans hop.symm, hbits⟩
  case h_12 hop =>
    obtain ⟨hmove, hbits⟩ := operandBits_of_decodeLMV h
    exact ⟨hmove.trans hop.symm, hbits⟩
  case h_2 | h_3 | h_4 | h_5 =>
    obtain rfl := Except.ok.inj h
    exact ⟨Eq.symm ‹loOpcode w = _›, encLM_fields w⟩
  case h_19 hop =>
    obtain rfl := Except.ok.inj h
    exact ⟨hop.symm, operandBits_doi_fields w⟩
  all_goals
    obtain ⟨hres, rfl⟩ := ifReserved_eq_ok h
    refine ⟨Eq.symm ‹loOpcode w = _›, ?_⟩
  case h_6 | h_7 | h_8 | h_9 => exact encLP_fields hres
  case h_10 => exact operandBits_aupd_fields hres
  case h_13 | h_16 | h_22 => exact toNat_imm16_field hres
  case h_14 => exact operandBits_bcc_fields hres
  case h_15 => exact operandBits_call_fields hres
  case h_18 => exact operandBits_doLoop_fields hres
  all_goals exact loOperand_of_L0 hres

theorem bits_of_decodeHi {i : Instr} (h : decodeHi w = .ok i) : i.bits = w.toNat / 2 ^ 32 * 2 ^ 32 := by
  obtain ⟨hhi, -⟩ := decodeHi_wellFormed h
  obtain ⟨-, -, -, hbits, -⟩ := hi_bits i hhi
  obtain ⟨hop, hfields⟩ := decodeHi_fields h
  have hw := w.isLt
  rw [hbits, hop, hfields, hiOpcode, toNat_field, hiOperand]
  omega

theorem bits_of_decodeLo {i : Instr} (h : decodeLo w = .ok i) : i.bits = w.toNat % 2 ^ 32 := by
  obtain ⟨hlo, -⟩ := decodeLo_wellFormed h
  obtain ⟨-, -, hbits, -⟩ := lo_bits i hlo
  obtain ⟨hop, hfields⟩ := decodeLo_fields h
  rw [hbits, hop, hfields, loOpcode, toNat_field, loOperand]
  omega

/-- The halves of a decoded word add up to the word (R100). -/
theorem encodeWord_of_decode {hi lo : Instr} (hhi : decodeHi w = .ok hi) (hlo : decodeLo w = .ok lo) :
    encodeWord hi lo = w := by
  rw [encodeWord, bits_of_decodeHi hhi, bits_of_decodeLo hlo, Nat.div_add_mod', BitVec.ofNat_toNat, BitVec.setWidth_eq]

/-! ## The assigned opcodes -/

theorem hiOpcode_assigned {i : Instr} (h : decodeHi w = .ok i) : hiOpcode w < 0x0F := by
  obtain ⟨hhi, -⟩ := decodeHi_wellFormed h
  obtain ⟨hop, -⟩ := decodeHi_fields h
  obtain ⟨-, -, hlt⟩ := hi_operand i hhi
  exact hop ▸ hlt

theorem loOpcode_assigned {i : Instr} (h : decodeLo w = .ok i) :
    loOpcode w < 0x0C ∨ (0x10 ≤ loOpcode w ∧ loOpcode w < 0x1A) := by
  unfold decodeLo at h
  split at h
  case h_23 => cases h
  all_goals omega

end Sys2Proof

open Sys2Proof

/-- Settles O2: the two halves of the word are the numbers of the decoded sub-instructions, and their sum is the
word. -/
theorem decodedWordIsItsEncoding : Obligations.DecodedWordIsItsEncoding := by
  unfold Obligations.DecodedWordIsItsEncoding
  intro w hi lo h
  obtain ⟨hdhi, hdlo⟩ := decodeWord_eq_ok h
  obtain ⟨hhi, hwfhi⟩ := decodeHi_wellFormed hdhi
  obtain ⟨hlo, hwflo⟩ := decodeLo_wellFormed hdlo
  exact ⟨hhi, hlo, hwfhi, hwflo, encodeWord_of_decode hdhi hdlo⟩

/-- Settles O4: the halves of a word that decodes have assigned opcodes. -/
theorem unassignedOpcodesAreInvalid : Obligations.UnassignedOpcodesAreInvalid := by
  unfold Obligations.UnassignedOpcodesAreInvalid
  rintro w hop ⟨hi, lo⟩ h
  obtain ⟨hdhi, hdlo⟩ := decodeWord_eq_ok h
  have hhi := hiOpcode_assigned hdhi
  have hlo := loOpcode_assigned hdlo
  omega

end

section
/-! The step that issues an invalid word faults (30_encoding.md R125; 40_machine.md R162, R182, R183). -/

namespace Sys2Proof.Machine

theorem issue_of_invalid {w : Word} (hw : ∀ pair, decodeWord w ≠ .ok pair) (a : Addr) (s : State) :
    issue w a s = .fault .unknownOpcode := by
  unfold issue
  split
  · rfl
  next hi lo hd => exact absurd hd (hw _)

/-- A state without a fault and with parameters within their bounds takes the phases of its mode. -/
theorem step_eq_clockStep {s : State} (hok : s.params.ok = true) (hfault : s.fault = none) :
    step s = clockStep s := by
  unfold step checkedStep
  rw [hfault]
  exact if_pos hok

theorem runningStep_of_invalid {ds : Bool} {s : State} (hpc : s.pc.toNat < s.params.iramWords)
    (hw : ∀ pair, decodeWord (Memory.read s.iram s.pc.toNat) ≠ .ok pair) :
    runningStep ds s = .fault .unknownOpcode := by
  unfold runningStep
  rw [if_neg (Nat.not_le_of_lt hpc), issue_of_invalid hw, andThen_fault]

theorem idleStep_of_invalid {ds : Bool} {s : State} {w : Word} {rest : List FifoEntry}
    (hfifo : s.fifo = .exec w :: rest) (hloop : isLoopControl w = false)
    (hw : ∀ pair, decodeWord w ≠ .ok pair) : idleStep ds s = .fault .unknownOpcode := by
  unfold idleStep
  rw [hfifo]
  simp only [hloop, Bool.false_eq_true, if_false, issue_of_invalid hw, andThen_fault]

end Sys2Proof.Machine

open Sys2Proof Sys2Proof.Machine

/-- Settles O5: in either mode the dispatch issues the word, and the fault of issue is that of the step. -/
theorem invalidWordFaultsWhenIssued : Obligations.InvalidWordFaultsWhenIssued := by
  unfold Obligations.InvalidWordFaultsWhenIssued
  intro s hok hfault
  rw [step_eq_clockStep hok hfault]
  unfold clockStep
  refine ⟨fun hmode hpc hw => ?_, fun hmode w rest hfifo hloop hw => ?_⟩
  · rw [hmode]
    exact runningStep_of_invalid hpc hw
  · rw [hmode]
    exact idleStep_of_invalid hfifo hloop hw

end

section
/-! What each stage of a sub-instruction does where nothing stops it: nothing in a stage without work, one list of
scheduled writes in stage 1 of the arithmetic, new working values in stage 1 of the loads and stores, and the loop and
drain effects of the control sub-instructions (40_machine.md R162 to R166). -/

namespace Sys2Proof.Machine

/-! ## Stages with and without work -/

theorem inStage1_of_eq {s : State} (h : s.cur.stage = 1) (handler : State → Res) :
    inStage1 handler s = handler s := if_pos h

theorem inStage1_of_ne {s : State} (h : s.cur.stage ≠ 1) (handler : State → Res) :
    inStage1 handler s = .next s := if_neg h

theorem loadOp_of_idle {s : State} (h : (s.cur.stage == 1 || s.cur.stage == 2 || s.cur.stage == 3) = false)
    (dbl : Bool) (mode : AddrMode) (p : Bool) (cc : Fin 8) (f : Fin 64) (n : Fin 8) :
    loadOp dbl mode p cc f n s = .next s := by
  simp only [Bool.or_eq_false_iff, beq_eq_false_iff_ne] at h
  obtain ⟨⟨h1, h2⟩, h3⟩ := h
  unfold loadOp
  split
  · contradiction
  · contradiction
  · contradiction
  · rfl

theorem storeOp_of_idle {s : State} (h : (s.cur.stage == 1 || s.cur.stage == 2) = false) (dbl : Bool)
    (mode : AddrMode) (p : Bool) (cc : Fin 8) (f : Fin 64) (n : Fin 8) : storeOp dbl mode p cc f n s = .next s := by
  simp only [Bool.or_eq_false_iff, beq_eq_false_iff_ne] at h
  obtain ⟨h1, h2⟩ := h
  unfold storeOp
  split
  · contradiction
  · contradiction
  · rfl

theorem execAupd_of_idle {s : State} (h : (s.cur.stage == 1 || s.cur.stage == 2) = false) (n : Fin 8)
    (off13 : BitVec 13) : execAupd n off13 s = .next s := by
  simp only [Bool.or_eq_false_iff, beq_eq_false_iff_ne] at h
  obtain ⟨h1, h2⟩ := h
  unfold execAupd
  split
  · contradiction
  · contradiction
  · rfl

theorem execSync_of_ne {s : State} (h : s.cur.stage ≠ 0) : execSync s = .next s := by
  unfold execSync
  split
  · contradiction
  · rfl

theorem execSync_of_issue {s : State} (h : s.cur.stage = 0) : execSync s = .next (startDrain .sync s) := by
  unfold execSync
  rw [h]
  rfl

theorem execStop_of_idle {s : State} (h : (s.cur.stage == 0 || s.cur.stage == 1) = false) (code16 : BitVec 16) :
    execStop code16 s = .next s := by
  simp only [Bool.or_eq_false_iff, beq_eq_false_iff_ne] at h
  obtain ⟨h0, h1⟩ := h
  unfold execStop
  split
  · contradiction
  · contradiction
  · rfl

theorem execStop_of_issue {s : State} (h : s.cur.stage = 0) (code16 : BitVec 16) :
    execStop code16 s = .next (startDrain .stop s) := by
  unfold execStop
  rw [h]
  rfl

/-- What stage 1 of `STOP` can do (43_control.md R302). -/
theorem execStop_appends {s : State} (h : s.cur.stage = 1) (code16 : BitVec 16) :
    Appends 0 0 [coreWrite .stopcode (code16.setWidth 64) 0xFFFFFFFF true s] s (execStop code16 s) := by
  unfold execStop
  rw [h]
  exact sched_appends ..

/-- A sub-instruction does nothing in a stage that the spec gives it no work in (40_machine.md R162, R164, R166). -/
theorem exec_of_idle {i : Instr} {s : State} (h : actsIn i s.cur.stage = false) : exec i s = .next s := by
  cases i with
  | hnop | lnop => rfl
  | ld | ldd | ldm | lddm => exact loadOp_of_idle h ..
  | st | std | stm | stdm => exact storeOp_of_idle h ..
  | aupd => exact execAupd_of_idle h ..
  | sync => exact execSync_of_ne (beq_eq_false_iff_ne.mp h)
  | stop => exact execStop_of_idle h _
  | _ => exact inStage1_of_ne (beq_eq_false_iff_ne.mp h) _

/-! ## Stage 1 of the loads and stores -/

/-- Stage 1 of a load computes activity and addresses (42_memory_ops.md R261). -/
theorem loadOp_stage1 {s : State} (h : s.cur.stage = 1) (dbl : Bool) (mode : AddrMode) (p : Bool) (cc : Fin 8)
    (f : Fin 64) (n : Fin 8) :
    loadOp dbl mode p cc f n s = .next (setLatch (addressLatch mode p cc n s) s) := by
  unfold loadOp
  rw [h]
  cases mode <;> rfl

/-- Working values are no part of what a bypass read sees. -/
theorem readReg_setLatch (r : Reg) (l : Latch) (s : State) : readReg r (setLatch l s) = readReg r s :=
  readReg_congr rfl rfl (by cases r <;> rfl) fun _ => rfl

theorem latchData_eq_takeWords (word : Sec → Word) (active : Vector Bool 4) (old : Vector Word 4) :
    latchData word active old = takeWords word active old := by
  ext i hi
  match i, hi with
  | 0, _ | 1, _ | 2, _ | 3, _ => simp [latchData, takeWords, perSection]

/-- Stage 1 of a store also reads its source registers in the active sections (42_memory_ops.md R261). -/
theorem storeOp_stage1 {s : State} (h : s.cur.stage = 1) (dbl : Bool) (mode : AddrMode) (p : Bool) (cc : Fin 8)
    (f : Fin 64) (n : Fin 8) :
    storeOp dbl mode p cc f n s = .next (setLatch (storeLatch dbl mode p cc f n s) s) := by
  have haddr : memStage1 mode p cc n s = setLatch (addressLatch mode p cc n s) s := by cases mode <;> rfl
  unfold storeOp
  rw [h, haddr]
  simp only [storeRead, readFpr, readReg_setLatch, latchData_eq_takeWords]
  rfl

/-! ## The loop sub-instructions in stage 1 -/

theorem doCommon_delaySlot {s : State} (h : s.cur.delaySlot = true) (stop : Addr) (n : BitVec 32) :
    doCommon stop n s = .fault .loopControlInDelaySlot := if_pos h

theorem doCommon_short {s : State} {stop : Addr} (hds : s.cur.delaySlot = false)
    (h : stop.toNat < s.cur.latch.pcAtIssue.toNat + 2) (n : BitVec 32) :
    doCommon stop n s = .fault .loopBodyTooShort := by
  unfold doCommon
  rw [hds, if_neg Bool.false_ne_true, if_pos h]

theorem doCommon_nested {s : State} {stop : Addr} (hds : s.cur.delaySlot = false)
    (hbody : s.cur.latch.pcAtIssue.toNat + 2 ≤ stop.toNat)
    (h : 0 < s.loopDepth ∧ (topFrame s).stop.toNat < stop.toNat + 2) (n : BitVec 32) :
    doCommon stop n s = .fault .nestedLoopEnd := by
  unfold doCommon
  rw [hds, if_neg Bool.false_ne_true, if_neg (Nat.not_lt_of_le hbody), if_pos h]

/-- `DO` and `DOI` where R206 admits them: a zero-trip jump, an overflow or a push (40_machine.md R200, R201, R205). -/
theorem doCommon_admitted {s : State} {stop : Addr} (hds : s.cur.delaySlot = false)
    (hbody : s.cur.latch.pcAtIssue.toNat + 2 ≤ stop.toNat)
    (hnest : s.loopDepth = 0 ∨ stop.toNat + 2 ≤ (topFrame s).stop.toNat) (n : BitVec 32) :
    doCommon stop n s =
      if n = 0 then
        .next { s with xferReq := some { kind := .jump, target := stop + 1 }, annulNext := true }
      else if s.loopDepth = s.params.loopMaxDepth then setSticky loopOvfBit s
      else loopPush (s.cur.latch.pcAtIssue + 1) stop n s := by
  unfold doCommon
  rw [hds, if_neg Bool.false_ne_true, if_neg (Nat.not_lt_of_le hbody), if_neg (by omega)]
  rfl

theorem exec_doLoop {s : State} (h : s.cur.stage = 1) (g : Fin 16) (stop : Addr) :
    exec (.doLoop g stop) s = doCommon stop (readGpr g s) s := inStage1_of_eq h _

theorem exec_doi {s : State} (h : s.cur.stage = 1) (n : BitVec 10) (stop : Addr) :
    exec (.doi n stop) s = doCommon stop (n.setWidth 32) s := inStage1_of_eq h _

/-- The count of `DOI` is 0 only where its field is. -/
theorem doi_count_ne_zero {n : BitVec 10} (h : n ≠ 0) : n.setWidth 32 ≠ 0 := by
  intro hz
  exact h (by bv_omega)

/-- A push below full depth, where the slot has room for its mirrors (40_machine.md R200). -/
theorem doCommon_push {s : State} {stop : Addr} {n : BitVec 32} (hds : s.cur.delaySlot = false)
    (hbody : s.cur.latch.pcAtIssue.toNat + 2 ≤ stop.toNat)
    (hnest : s.loopDepth = 0 ∨ stop.toNat + 2 ≤ (topFrame s).stop.toNat)
    (hdepth : s.loopDepth < s.params.loopMaxDepth) (hroom : RoomFor 0 s.params.loopRegDelay 3 s) (hn : n ≠ 0) :
    doCommon stop n s =
      .next (scheduled 0 s.params.loopRegDelay (pushMirrors n stop (s.loopDepth + 1) s)
        (pushed (s.cur.latch.pcAtIssue + 1) stop n s)) := by
  rw [doCommon_admitted hds hbody hnest, if_neg hn, if_neg (Nat.ne_of_lt hdepth)]
  exact (loopPush_appends ..).next hroom

/-- At full depth nothing is pushed, and LOOP_OVF is scheduled (40_machine.md R201). -/
theorem doCommon_overflow {s : State} {stop : Addr} {n : BitVec 32} (hds : s.cur.delaySlot = false)
    (hbody : s.cur.latch.pcAtIssue.toNat + 2 ≤ stop.toNat)
    (hnest : s.loopDepth = 0 ∨ stop.toNat + 2 ≤ (topFrame s).stop.toNat)
    (hdepth : s.loopDepth = s.params.loopMaxDepth) (hroom : RoomFor 0 0 1 s) (hn : n ≠ 0) :
    doCommon stop n s = .next (scheduled 0 0 [coreWrite .status loopOvfBit loopOvfBit true s] s) := by
  rw [doCommon_admitted hds hbody hnest, if_neg hn, if_pos hdepth]
  exact (setStickyAt_appends ..).next hroom

/-- `ENDDO` where R299 admits it (40_machine.md R202, R203). -/
theorem exec_enddo_admitted {s : State} (h : s.cur.stage = 1) (hds : s.cur.delaySlot = false)
    (hpop : s.popPending = false) (hback : ∀ x, s.xferPending = some x → x.kind ≠ .loop) :
    exec .enddo s = if s.loopDepth = 0 then setSticky loopUnfBit s else loopPop 0 s := by
  have hfree : loopBackPending s = false := by
    unfold loopBackPending
    split
    next x hx => simpa using hback x hx
    · rfl
  have hexec : exec .enddo s = enddoHandler s := inStage1_of_eq h _
  rw [hexec, enddoHandler, hds, hpop, hfree]
  rfl

end Sys2Proof.Machine

open Sys2Proof Sys2Proof.Machine

/-- Settles O26, sub-instruction by sub-instruction. -/
theorem otherStagesDoNothing : Obligations.OtherStagesDoNothing := by
  unfold Obligations.OtherStagesDoNothing
  intro i s h
  exact exec_of_idle h

/-- Settles O21: each is `ExecHi` with its own operation, whose handler schedules `hiWrites`. -/
theorem threeOperandArithmetic : Obligations.ThreeOperandArithmetic := by
  unfold Obligations.ThreeOperandArithmetic
  intro s p cc fd fs ft h
  exact ⟨(execHi_appends h .fadd p cc fd fs (some ft)).next, (execHi_appends h .fmul p cc fd fs (some ft)).next,
    (execHi_appends h .fmadd p cc fd fs (some ft)).next, (execHi_appends h .cmadd p cc fd fs (some ft)).next⟩

/-- Settles O22: each is `ExecHi` with its own operation and no third operand. -/
theorem unaryArithmetic : Obligations.UnaryArithmetic := by
  unfold Obligations.UnaryArithmetic
  intro s p cc fd fs h
  exact ⟨(execHi_appends h .fsin p cc fd fs none).next, (execHi_appends h .fcos p cc fd fs none).next,
    (execHi_appends h .frecip p cc fd fs none).next, (execHi_appends h .flog2 p cc fd fs none).next,
    (execHi_appends h .fexp2 p cc fd fs none).next, (execHi_appends h .fsqrt p cc fd fs none).next⟩

/-- Settles O24: the handler of `FPERM` schedules `permWrites`. -/
theorem permute : Obligations.Permute := by
  unfold Obligations.Permute
  intro s p cc fd fs ft h hroom
  exact (execFperm_appends h p cc fd fs ft).next hroom

/-- Settles O27: the four loads are `loadOp` in their two addressing modes. -/
theorem loadAddressStage : Obligations.LoadAddressStage := by
  unfold Obligations.LoadAddressStage
  intro s p cc f n off13 h
  exact ⟨loadOp_stage1 h .., loadOp_stage1 h .., loadOp_stage1 h .., loadOp_stage1 h ..⟩

/-- Settles O28: the four stores are `storeOp` in their two addressing modes. -/
theorem storeAddressStage : Obligations.StoreAddressStage := by
  unfold Obligations.StoreAddressStage
  intro s p cc f n off13 h
  exact ⟨storeOp_stage1 h .., storeOp_stage1 h .., storeOp_stage1 h .., storeOp_stage1 h ..⟩

/-- Settles O38: both forms push with their own count. -/
theorem loopEntryPushesFrame : Obligations.LoopEntryPushesFrame := by
  unfold Obligations.LoopEntryPushesFrame
  intro s g count10 stop h hds hbody hnest hdepth hroom entered
  rw [exec_doLoop h, exec_doi h]
  exact ⟨doCommon_push hds hbody hnest hdepth hroom,
    fun hn => doCommon_push hds hbody hnest hdepth hroom (doi_count_ne_zero hn)⟩

/-- Settles O39: the zero-trip case of an admitted loop entry. -/
theorem zeroTripLoopJumps : Obligations.ZeroTripLoopJumps := by
  unfold Obligations.ZeroTripLoopJumps
  intro s g stop h hds hbody hnest skipped
  rw [exec_doLoop h, exec_doi h, doCommon_admitted hds hbody hnest, doCommon_admitted hds hbody hnest]
  exact ⟨fun hn => if_pos hn, if_pos rfl⟩

/-- Settles O40: both forms overflow with a count above 0. -/
theorem loopOverflowSetsSticky : Obligations.LoopOverflowSetsSticky := by
  unfold Obligations.LoopOverflowSetsSticky
  intro s g count10 stop h hds hbody hnest hdepth hroom sticky
  rw [exec_doLoop h, exec_doi h]
  exact ⟨doCommon_overflow hds hbody hnest hdepth hroom,
    fun hn => doCommon_overflow hds hbody hnest hdepth hroom (doi_count_ne_zero hn)⟩

/-- Settles O41: both forms run `doCommon` with some count, which tests the three constraints in order. -/
theorem loopEntryFaults : Obligations.LoopEntryFaults := by
  unfold Obligations.LoopEntryFaults
  intro s i stop h hi
  have hdo : ∃ n, exec i s = doCommon stop n s := by
    rcases hi with ⟨g, rfl⟩ | ⟨n, rfl⟩
    · exact ⟨_, exec_doLoop h g stop⟩
    · exact ⟨_, exec_doi h n stop⟩
  obtain ⟨n, hexec⟩ := hdo
  rw [hexec]
  exact ⟨fun hds => doCommon_delaySlot hds stop n, fun hds hshort => doCommon_short hds hshort n,
    fun hds hbody hdepth hnest => doCommon_nested hds hbody ⟨hdepth, hnest⟩ n⟩

/-- Settles O42: an admitted `ENDDO` pops a frame, or sets LOOP_UNF on an empty stack. -/
theorem loopExitPopsFrame : Obligations.LoopExitPopsFrame := by
  unfold Obligations.LoopExitPopsFrame
  intro s h hds hpop hback
  rw [exec_enddo_admitted h hds hpop hback]
  refine ⟨fun hdepth hroom => ?_, fun hdepth hroom => ?_⟩
  · rw [if_neg (Nat.ne_of_gt hdepth)]
    exact (loopPop_appends 0 s).next hroom
  · rw [if_pos hdepth]
    exact (setStickyAt_appends 0 loopUnfBit s).next hroom

/-- Settles O44: issue starts the drain, and stage 1 of `STOP` schedules its code. -/
theorem syncAndStop : Obligations.SyncAndStop := by
  unfold Obligations.SyncAndStop
  intro s code
  exact ⟨execSync_of_issue, fun h => execSync_of_ne (by rw [h]; decide), fun h => execStop_of_issue h code,
    fun h hroom => (execStop_appends h code).next hroom⟩

/-- Settles O45, from the two branches of `Sched`. -/
theorem scheduleAppendsOrOverflows : Obligations.ScheduleAppendsOrOverflows := by
  unfold Obligations.ScheduleAppendsOrOverflows
  intro s late d r value mask b k w
  exact ⟨fun hfull => if_pos hfull, fun hfree => if_neg hfree⟩

end

section
/-! The PC update and the transfer latch, one equation for each source of the next PC (40_machine.md R190 to R197,
R202). -/

namespace Sys2Proof.Machine

/-! ## The sources of the PC, in the order of R190 -/

theorem pcUpdate_conflict {s : State} (hpop : s.popPending = true) (hpend : s.xferPending ≠ none) (pc0 : Addr)
    (mode : Mode) : pcUpdate pc0 mode s = .fault .pcConflict := by
  unfold pcUpdate
  rw [if_pos hpop, if_pos hpend]

theorem pcUpdate_pop {s : State} (hpop : s.popPending = true) (hpend : s.xferPending = none) (pc0 : Addr)
    (mode : Mode) :
    pcUpdate pc0 mode s =
      andThen (loopPop 1 s) fun s => .next (setPc (pc0 + 1) { s with popPending := false }) := by
  unfold pcUpdate
  rw [if_pos hpop, if_neg (not_not_intro hpend)]

theorem pcUpdate_transfer {s : State} {x : Xfer} (hpop : s.popPending = false) (hpend : s.xferPending = some x)
    (pc0 : Addr) (mode : Mode) :
    pcUpdate pc0 mode s = applyTransfer x pc0 { s with xferPending := none } := by
  unfold pcUpdate
  rw [hpop, if_neg Bool.false_ne_true, hpend]

theorem pcUpdate_noTransfer {s : State} (hpop : s.popPending = false) (hpend : s.xferPending = none)
    (pc0 : Addr) (mode : Mode) :
    pcUpdate pc0 mode s =
      if mode = .running ∧ 0 < s.loopDepth ∧ pc0 + 1 = (topFrame s).stop then loopEnd pc0 s
      else .next (setPc (pc0 + 1) s) := by
  unfold pcUpdate
  rw [hpop, if_neg Bool.false_ne_true, hpend]

/-! ## Applied transfers -/

/-- An applied call within the capacity of the call stack (40_machine.md R193). -/
theorem applyTransfer_call {s : State} (hdepth : s.callDepth < s.params.callMaxDepth)
    (hroom : RoomFor 1 s.params.callRegDelay 1 s) (a pc0 : Addr) :
    applyTransfer { kind := .call, target := a } pc0 s =
      .next (setPc a (scheduled 1 s.params.callRegDelay
        [coreWrite .psp (BitVec.ofNat 64 (s.callDepth + 1)) 0xFFFFFFFF true s]
        { s with callstk := s.callstk.set s.callDepth (pc0 + 1), callDepth := s.callDepth + 1 })) := by
  show andThen (callPush (pc0 + 1) s) _ = _
  rw [(callPush_appends hdepth (pc0 + 1)).next hroom]
  rfl

/-- An applied call at full depth (40_machine.md R193). -/
theorem applyTransfer_call_full {s : State} (hdepth : ¬ s.callDepth < s.params.callMaxDepth)
    (hroom : RoomFor 1 0 1 s) (a pc0 : Addr) :
    applyTransfer { kind := .call, target := a } pc0 s =
      .next (setPc a (scheduled 1 0 [coreWrite .status callOvfBit callOvfBit true s] s)) := by
  show andThen (callPush (pc0 + 1) s) _ = _
  rw [(callPush_full hdepth (pc0 + 1)).next hroom]
  rfl

/-- What an applied return does where there is a frame (40_machine.md R194). -/
theorem applyTransfer_ret_appends {s : State} (hdepth : 0 < s.callDepth) (a pc0 : Addr) :
    Appends 1 s.params.callRegDelay [coreWrite .psp (BitVec.ofNat 64 (s.callDepth - 1)) 0xFFFFFFFF true s]
      (setPc (s.callstk.getD (s.callDepth - 1) 0) { s with callDepth := s.callDepth - 1 })
      (applyTransfer { kind := .ret, target := a } pc0 s) := by
  unfold applyTransfer
  rw [if_pos hdepth]
  exact schedAt_appends ..

/-- An applied return on an empty call stack (40_machine.md R194). -/
theorem applyTransfer_ret_empty {s : State} (hdepth : s.callDepth = 0) (hroom : RoomFor 1 0 1 s) (a pc0 : Addr) :
    applyTransfer { kind := .ret, target := a } pc0 s =
      .next (setPc (pc0 + 1) (scheduled 1 0 [coreWrite .status callUnfBit callUnfBit true s] s)) := by
  unfold applyTransfer
  rw [if_neg (Nat.not_lt_of_le (Nat.le_of_eq hdepth)), (setStickyAt_appends 1 callUnfBit s).next hroom]
  rfl

/-- The call stack and the PC after an applied call that finds its capacity (40_machine.md R193). -/
theorem applyTransfer_call_next {s u : State} {a pc0 : Addr} (hdepth : s.callDepth < s.params.callMaxDepth)
    (h : applyTransfer { kind := .call, target := a } pc0 s = .next u) :
    u.pc = a ∧ u.callstk = s.callstk.set s.callDepth (pc0 + 1) ∧ u.callDepth = s.callDepth + 1 := by
  obtain ⟨v, hv, h⟩ := andThen_eq_next h
  obtain ⟨rfl, -⟩ := (hv ▸ callPush_appends hdepth (pc0 + 1)).eq_of_next
  cases h
  exact ⟨rfl, rfl, rfl⟩

/-- The call stack and the PC after an applied return from a frame (40_machine.md R194). -/
theorem applyTransfer_ret_next {s u : State} {a pc0 : Addr} (hdepth : 0 < s.callDepth)
    (h : applyTransfer { kind := .ret, target := a } pc0 s = .next u) :
    u.pc = s.callstk.getD (s.callDepth - 1) 0 ∧ u.callstk = s.callstk ∧ u.callDepth = s.callDepth - 1 := by
  obtain ⟨rfl, -⟩ := (h ▸ applyTransfer_ret_appends hdepth a pc0).eq_of_next
  exact ⟨rfl, rfl, rfl⟩

/-! ## Loop ends -/

/-- Loop-end detection where the slot has room for the mirror write of LC (40_machine.md R195). -/
theorem loopEnd_eq {s : State} (hroom : RoomFor 1 s.params.loopRegDelay 1 s) (pc0 : Addr) :
    loopEnd pc0 s =
      let count := (topFrame s).count - 1
      let t := scheduled 1 s.params.loopRegDelay [coreWrite .lc (count.setWidth 64) 0xFFFFFFFF true s] (countedDown s)
      if count = 0 then .next (setPc (pc0 + 1) { t with popPending := true })
      else if s.xferReq ≠ none then .fault .pcConflict
      else .next (setPc (pc0 + 1) { t with xferReq := some { kind := .loop, target := (topFrame s).start } }) := by
  show andThen (mirrorLc 1 ((topFrame s).count - 1) (countedDown s)) _ = _
  rw [(mirrorLc_appends 1 ((topFrame s).count - 1) (countedDown s)).next hroom]
  rfl

end Sys2Proof.Machine

open Sys2Proof.Machine

/-- Settles O49: a pop with a latched transfer, a latched transfer, and the next address. -/
theorem pcUpdatePriority : Obligations.PcUpdatePriority := by
  unfold Obligations.PcUpdatePriority
  intro s pc0 a mode
  refine ⟨fun hpop hpend => pcUpdate_conflict hpop hpend pc0 mode, fun hpop kind hkind hpend => ?_,
    fun hpop hpend hend => ?_⟩
  · rw [pcUpdate_transfer hpop hpend]
    rcases hkind with rfl | rfl <;> rfl
  · rw [pcUpdate_noTransfer hpop hpend, if_neg hend]
    rfl

/-- Settles O50: the latched call, below and at full depth. -/
theorem appliedCall : Obligations.AppliedCall := by
  unfold Obligations.AppliedCall
  intro s pc0 a mode hpop hpend
  rw [pcUpdate_transfer hpop hpend]
  refine ⟨fun hdepth hroom => ?_, fun hdepth hroom => ?_⟩
  · exact applyTransfer_call (s := { s with xferPending := none }) hdepth hroom a pc0
  · exact applyTransfer_call_full (s := { s with xferPending := none }) (Nat.not_lt_of_le hdepth) hroom a pc0

/-- Settles O51: the latched return, with a frame and without. -/
theorem appliedReturn : Obligations.AppliedReturn := by
  unfold Obligations.AppliedReturn
  intro s pc0 a mode hpop hpend
  rw [pcUpdate_transfer hpop hpend]
  refine ⟨fun hdepth hroom => ?_, fun hdepth hroom => ?_⟩
  · exact (applyTransfer_ret_appends (s := { s with xferPending := none }) hdepth a pc0).next hroom
  · exact applyTransfer_ret_empty (s := { s with xferPending := none }) hdepth hroom a pc0

/-- Settles O52: with nothing pending the PC update is loop-end detection, whose three outcomes follow. -/
theorem loopEndDetection : Obligations.LoopEndDetection := by
  unfold Obligations.LoopEndDetection
  intro s pc0 hpop hpend hdepth hend hroom count counted
  rw [pcUpdate_noTransfer hpop hpend, if_pos ⟨rfl, hdepth, hend⟩, loopEnd_eq hroom]
  refine ⟨fun hcount => if_pos hcount, fun hcount hreq => ?_, fun hcount hreq => ?_⟩
  · exact (if_neg hcount).trans (if_neg (not_not_intro hreq))
  · exact (if_neg hcount).trans (if_pos hreq)

/-- Settles O53: a pending pop schedules the mirrors of the parent, then clears itself. -/
theorem pendingPopRestoresParent : Obligations.PendingPopRestoresParent := by
  unfold Obligations.PendingPopRestoresParent
  intro s pc0 mode hpop hpend hroom
  rw [pcUpdate_pop hpop hpend, (loopPop_appends 1 s).next hroom]
  rfl

/-- Settles O54, from the branches of the latch. -/
theorem latchTransfer : Obligations.LatchTransfer := by
  unfold Obligations.LatchTransfer
  intro s ds x
  unfold latchXfer
  refine ⟨fun hreq => by rw [hreq], fun hreq hds => ?_, fun hreq hds hpend => ?_, fun hreq hds hpend => ?_⟩
  · rw [hreq, hds]
    rfl
  · rw [hreq, hds]
    exact if_pos hpend
  · rw [hreq, hds]
    exact if_neg (not_not_intro hpend)

/-- Settles O55: the return reads the frame that the call wrote, and neither touches the frames below it. -/
theorem returnUndoesCall : Obligations.ReturnUndoesCall := by
  unfold Obligations.ReturnUndoesCall
  intro s u v w pc0 pc1 a b m₁ m₂ hpops hpopv hdepth hlen hcall hu hstk hdep hret hw
  rw [pcUpdate_transfer hpops hcall] at hu
  rw [pcUpdate_transfer hpopv hret] at hw
  obtain ⟨hupc, hustk, hudepth⟩ :=
    applyTransfer_call_next (s := { s with xferPending := none }) hdepth hu
  have hvdepth : v.callDepth = s.callDepth + 1 := hdep.trans hudepth
  have hvstk : v.callstk = s.callstk.set s.callDepth (pc0 + 1) := hstk.trans hustk
  obtain ⟨hwpc, hwstk, hwdepth⟩ :=
    applyTransfer_ret_next (s := { v with xferPending := none }) (hvdepth ▸ Nat.succ_pos _) hw
  simp only [hvdepth, hvstk, Nat.add_sub_cancel] at hwpc hwstk hwdepth
  refine ⟨hupc, ?_, hwdepth, fun j hj => ?_⟩
  · rw [hwpc]
    simp [List.getD_eq_getElem?_getD, hlen, hdepth]
  · rw [hwstk]
    simp [List.getD_eq_getElem?_getD, List.getElem?_set_ne (Nat.ne_of_gt hj)]

end

section
/-! What a bypass read finds after a write is scheduled (40_machine.md R151, R153, R158, R159). -/

namespace Sys2Proof.Machine

/-- A search from the newest slot to the oldest stops at the first slot that has something to give. -/
theorem findSome?_reverse_range {α : Type} {f : Nat → Option α} {b : α} {n d : Nat} (hd : d < n)
    (hlate : ∀ e, d < e → e < n → f e = none) (hfound : f d = some b) :
    (List.range n).reverse.findSome? f = some b := by
  induction n with
  | zero => exact absurd hd (Nat.not_lt_zero d)
  | succ n ih =>
    rw [List.range_succ, List.reverse_append, List.reverse_singleton, List.singleton_append, List.findSome?_cons]
    rcases Nat.lt_succ_iff_lt_or_eq.mp hd with hlt | rfl
    · rw [hlate n hlt (Nat.lt_succ_self n)]
      exact ih hlt fun e hde hen => hlate e hde (Nat.lt_succ_of_lt hen)
    · rw [hfound]

theorem lastBypass_eq_none {r : Reg} {ws : List PendingWrite} (h : ∀ w ∈ ws, w.reg ≠ r ∨ w.bypass = false) :
    lastBypass r ws = none := by
  unfold lastBypass
  rw [List.find?_eq_none]
  intro w hw
  rcases h w (List.mem_reverse.mp hw) with hreg | hoff
  · simp [bypasses, hreg]
  · simp [bypasses, hoff]

theorem lastBypass_append_self {r : Reg} {w : PendingWrite} (h : bypasses r w = true) (ws : List PendingWrite) :
    lastBypass r (ws ++ [w]) = some w := by
  unfold lastBypass
  rw [List.reverse_append, List.reverse_singleton, List.singleton_append, List.find?_cons_of_pos h]

/-- Two delays below the depth of the queue have slots of their own (40_machine.md R151). -/
theorem slot_of_delay_ne {c d e n : Nat} (hd : d < n) (he : e < n) (hne : e ≠ d) : (c + e) % n ≠ (c + d) % n :=
  fun h => hne (Nat.ModEq.eq_of_lt_of_lt (Nat.ModEq.add_left_cancel' c h) he hd)

/-- A scheduled write that may be bypassed is what the next read finds, unless one is pending that commits later
(40_machine.md R158, R159). -/
theorem readReg_scheduled_same {r : Reg} {d : Nat} {s : State} (hqueue : s.queue.length = s.params.queueDepth)
    (hd : d < s.params.queueDepth)
    (hlate : ∀ e, d < e → e < s.params.queueDepth → ∀ w ∈ slot ((s.cycle + e) % s.params.queueDepth) s,
      w.reg ≠ r ∨ w.bypass = false) (value mask : Word) :
    readReg r (scheduled 0 d [coreWrite r value mask true s] s) = merge (rfRead r s) value mask := by
  have hslot : ∀ e, slot ((s.cycle + e) % s.params.queueDepth) (scheduled 0 d [coreWrite r value mask true s] s) =
      if (s.cycle + e) % s.params.queueDepth = (s.cycle + d) % s.params.queueDepth then
        slot ((s.cycle + e) % s.params.queueDepth) s ++ [coreWrite r value mask true s]
      else slot ((s.cycle + e) % s.params.queueDepth) s := fun e => by
    have hin : (s.cycle + e) % s.params.queueDepth < s.queue.length := by
      rw [hqueue]
      exact Nat.mod_lt _ (Nat.zero_lt_of_lt hd)
    rw [slot_scheduled]
    simp only [hin, and_true]
    rfl
  have hfound := findSome?_reverse_range (b := coreWrite r value mask true s)
    (f := fun e => lastBypass r
      (slot ((s.cycle + e) % s.params.queueDepth) (scheduled 0 d [coreWrite r value mask true s] s)))
    hd (fun e hde he => by rw [hslot, if_neg (slot_of_delay_ne hd he (Nat.ne_of_gt hde)),
      lastBypass_eq_none (hlate e hde he)])
    (by rw [hslot, if_pos rfl, lastBypass_append_self (by simp [bypasses, coreWrite])])
  rw [readReg_eq, scheduled_params, scheduled_cycle, hfound, rfRead_scheduled]
  rfl

end Sys2Proof.Machine

open Sys2Proof.Machine

/-- Settles O47: a read that cannot find the new write searches as before; one that can finds it first. -/
theorem bypassVisibility : Obligations.BypassVisibility := by
  unfold Obligations.BypassVisibility
  intro s t r value mask d b hqueue hd hsched
  obtain ⟨rfl, -⟩ := (hsched ▸ sched_appends r value mask d b s).eq_of_next
  refine ⟨fun r' hr' => readReg_scheduled (fun w hw => ?_) 0 d s, fun hb hlate => ?_⟩
  · obtain rfl := List.mem_singleton.mp hw
    rcases hr' with hne | rfl
    · simp [bypasses, coreWrite, Ne.symm hne]
    · simp [bypasses, coreWrite]
  · subst hb
    exact readReg_scheduled_same hqueue hd hlate value mask

end

section
/-! What a step is in each of its dispatches: the fetched word and the phases after it, the pre-load, and the outcomes
that no phase follows (40_machine.md R152, R162, R163, R168, R181 to R183, R186). -/

namespace Sys2Proof.Machine

/-- Two continuations that agree on every state the first part can go on to. -/
theorem andThen_congr {o : Res} {f g : State → Res} (h : ∀ u, o = .next u → f u = g u) :
    andThen o f = andThen o g := by
  cases o with
  | next u => exact h u rfl
  | fault r => rfl
  | refused r => rfl

/-! ## A fetched word -/

/-- A RUNNING step is the issue of the decoded word and phases 2 to 6 (40_machine.md R181, R182). -/
theorem step_of_fetches {hi lo : Instr} {s : State} (h : Fetches hi lo s) :
    step s =
      andThen (issuePair hi lo s.pc s) fun t => runPhases .running true s.xferPending.isSome s.pc t := by
  obtain ⟨hok, hfault, hmode, hpc, hdec⟩ := h
  rw [step_eq_clockStep hok hfault]
  unfold clockStep
  rw [hmode]
  show runningStep _ s = _
  unfold runningStep issue
  rw [if_neg (Nat.not_le_of_lt hpc), hdec]

theorem pushCal_of_room {s : State} (h : s.calpipe.length < calSlots) (i : Instr) (ann : Bool) :
    pushCal i ann s =
      .next { s with calpipe := s.calpipe ++ [{ op := i, ticket := s.cycle, stage := 0, annulled := ann }] } :=
  if_neg (Nat.not_le_of_lt h)

theorem pushLmem_of_room {s : State} (h : s.lmempipe.length < lmemSlots) (i : Instr) (ann : Bool) (a : Addr) :
    pushLmem i ann a s =
      .next { s with
        lmempipe := s.lmempipe ++
          [{ op := i, ticket := s.cycle, stage := 0, annulled := ann, latch := Latch.fresh a }] } :=
  if_neg (Nat.not_le_of_lt h)

/-- Issue into pipelines with a free slot pushes both entries; stage 0 follows unless the word is annulled
(40_machine.md R161, R162). -/
theorem issuePair_of_room {s : State} (hcal : s.calpipe.length < calSlots) (hlmem : s.lmempipe.length < lmemSlots)
    (hi lo : Instr) (a : Addr) :
    issuePair hi lo a s =
      if s.annulNext then .next (withPushed hi lo a s) else issueStage0 hi lo a (withPushed hi lo a s) := by
  unfold issuePair
  dsimp only
  rw [pushCal_of_room, andThen_next, pushLmem_of_room, andThen_next]
  · rfl
  · exact hlmem
  · exact hcal

theorem actsIn_issue_of_isHi {i : Instr} (h : i.isHi = true) : actsIn i 0 = false := by
  cases i with
  | hnop | fadd | fmul | fmadd | cmadd | fcmpeq | fcmplt | fcmple | fperm | fsin | fcos | frecip | flog2 | fexp2
  | fsqrt => rfl
  | _ => cases h

/-- At issue only the lo sub-instruction can act (40_machine.md R162). -/
theorem issueStage0_eq {hi : Instr} (h : hi.isHi = true) (lo : Instr) (a : Addr) (s : State) :
    issueStage0 hi lo a s =
      andThen (exec lo (stageState 0 false (Latch.fresh a) s)) fun u => .next (clearCur u) := by
  unfold issueStage0
  rw [runStage, exec_of_idle (actsIn_issue_of_isHi h)]
  rfl

/-! ## The shifts of one new entry -/

/-- The shift of an arithmetic pipeline that holds one new entry (40_machine.md R163). -/
theorem shiftCal_new {i : Instr} {n : Nat} {s : State}
    (hpipe : s.calpipe = [{ op := i, ticket := n, stage := 0, annulled := false }]) (ds : Bool) :
    shiftCal ds s =
      andThen (exec i (stageState 1 ds (Latch.fresh 0) s)) fun u =>
        .next (clearCur { u with calpipe := [{ op := i, ticket := n, stage := 1, annulled := false }] }) := by
  rw [shiftCal, hpipe]
  rfl

/-- The shift of a memory/control pipeline that holds one new entry (40_machine.md R163). -/
theorem shiftLmem_new {i : Instr} {n : Nat} {l : Latch} {s : State}
    (hpipe : s.lmempipe = [{ op := i, ticket := n, stage := 0, annulled := false, latch := l }]) (ds : Bool) :
    shiftLmem ds s =
      andThen (exec i (stageState 1 ds l s)) fun u =>
        .next (clearCur
          { u with lmempipe := [{ op := i, ticket := n, stage := 1, annulled := false, latch := u.cur.latch }] }) := by
  rw [shiftLmem, hpipe]
  rfl

/-! ## Annulled entries -/

/-- An annulled entry of the arithmetic pipeline only advances (40_machine.md R168). -/
theorem shiftCalFrom_annulled {e : CalEntry} (h : e.annulled = true) (ds : Bool) (rest done : List CalEntry)
    (s : State) :
    shiftCalFrom ds (e :: rest) done s =
      shiftCalFrom ds rest (if e.stage + 1 = calLastStage then done else { e with stage := e.stage + 1 } :: done)
        s := by
  rw [shiftCalFrom, if_pos h, andThen_next]

/-- The shift fills the stage context anew for each entry, so the one it starts with does not matter. -/
theorem shiftLmemFrom_cur (ds : Bool) (es done : List LmemEntry) (c : StageCtx) (s : State) :
    shiftLmemFrom ds es done { s with cur := c } = shiftLmemFrom ds es done s := by
  induction es generalizing done c s with
  | nil => rfl
  | cons e es ih =>
    rw [shiftLmemFrom, shiftLmemFrom]
    by_cases hann : e.annulled = true
    · rw [if_pos hann, if_pos hann, andThen_next, andThen_next]
      exact (ih _ _ s).trans (ih _ _ s).symm
    · rw [if_neg hann, if_neg hann]
      rfl

/-- An annulled entry of the memory/control pipeline only advances, with its working values (40_machine.md R168). -/
theorem shiftLmemFrom_annulled {e : LmemEntry} (h : e.annulled = true) (ds : Bool) (rest done : List LmemEntry)
    (s : State) :
    shiftLmemFrom ds (e :: rest) done s =
      shiftLmemFrom ds rest (if e.stage + 1 = lmemLastStage then done else { e with stage := e.stage + 1 } :: done)
        s := by
  rw [shiftLmemFrom, if_pos h, andThen_next]
  exact shiftLmemFrom_cur ..

/-! ## The other dispatches -/

theorem idleStep_of_preload {ds : Bool} {s : State} {a : Addr} {w : Word} {rest : List FifoEntry}
    (h : s.fifo = .preload a w :: rest) :
    idleStep ds s = .next { s with fifo := rest, iram := Memory.write s.iram a.toNat w } := by
  unfold idleStep
  rw [h]

theorem idleStep_of_loopControl {ds : Bool} {s : State} {w : Word} {rest : List FifoEntry}
    (h : s.fifo = .exec w :: rest) (hloop : isLoopControl w = true) : idleStep ds s = .fault .fifoLoopControl := by
  unfold idleStep
  rw [h]
  exact if_pos hloop

theorem clockStep_of_idle {s : State} (h : modeOf s = .idle) : clockStep s = idleStep s.xferPending.isSome s := by
  unfold clockStep
  rw [h]

theorem isLoopControl_of_decodeLo {w : Word} {lo : Instr} (h : decodeLo w = .ok lo)
    (hlo : (∃ g a, lo = .doLoop g a) ∨ (∃ n a, lo = .doi n a) ∨ lo = .enddo) : isLoopControl w = true := by
  unfold isLoopControl
  rw [h]
  rcases hlo with ⟨g, a, rfl⟩ | ⟨n, a, rfl⟩ | rfl <;> rfl

end Sys2Proof.Machine

open Sys2Proof Sys2Proof.Machine

/-- Settles O6: phases 2 to 6 written out after the issue. -/
theorem stepRunsDecodedWord : Obligations.StepRunsDecodedWord := by
  unfold Obligations.StepRunsDecodedWord
  intro s hi lo h
  exact step_of_fetches h

/-- Settles O7: issue is stage 0 of the lo half, and each shift is stage 1 of the one entry in its pipeline. -/
theorem stepExecutesBothHalves : Obligations.StepExecutesBothHalves := by
  unfold Obligations.StepExecutesBothHalves
  intro s hi lo h hcal hlmem hann ds
  have hhi : hi.isHi = true := by
    obtain ⟨-, -, -, -, hdec⟩ := h
    exact (decodeHi_wellFormed (decodeWord_eq_ok hdec).1).1
  have hpush : withPushed hi lo s.pc s =
      { s with
        annulNext := false
        calpipe := [{ op := hi, ticket := s.cycle, stage := 0, annulled := false }]
        lmempipe := [{ op := lo, ticket := s.cycle, stage := 0, annulled := false, latch := Latch.fresh s.pc }] } := by
    rw [withPushed, hcal, hlmem, hann]
    rfl
  rw [step_of_fetches h, issuePair_of_room (by rw [hcal]; decide) (by rw [hlmem]; decide), hann,
    if_neg Bool.false_ne_true, issueStage0_eq hhi, hpush, andThen_assoc]
  refine andThen_congr fun a ha => ?_
  obtain ⟨hviewa, -⟩ := (exec_keeps ..).of_next ha
  have hcala := (congrArg State.calpipe hviewa :)
  have hlmema := (congrArg State.lmempipe hviewa :)
  rw [andThen_next, runPhases, shiftCal_new (s := clearCur a) hcala, andThen_assoc]
  refine andThen_congr fun b hb => ?_
  obtain ⟨hviewb, -⟩ := (exec_keeps ..).of_next hb
  have hlmemb := (congrArg State.lmempipe hviewb :).trans hlmema
  have hlast := shiftLmem_new
    (s := clearCur { b with calpipe := [{ op := hi, ticket := s.cycle, stage := 1, annulled := false }] }) hlmemb ds
  rw [andThen_next, hlast, andThen_assoc]
  rfl

/-- Settles O8: an annulled word is pushed and not executed, and an annulled entry passes through a shift. -/
theorem annulledWordExecutesNoStage : Obligations.AnnulledWordExecutesNoStage := by
  unfold Obligations.AnnulledWordExecutesNoStage
  refine ⟨fun s hi lo h hcal hlmem hann => ?_, fun s ds e rest done he => shiftCalFrom_annulled he ds rest done s,
    fun s ds e rest done he => shiftLmemFrom_annulled he ds rest done s⟩
  rw [step_of_fetches h, issuePair_of_room (by rw [hcal]; decide) (by rw [hlmem]; decide), if_pos hann, andThen_next,
    runPhases, shiftCal, withPushed, hcal, hlmem, hann]
  rfl

/-- Settles O10: the bounds are tested before the step. -/
theorem illFormedParametersRefused : Obligations.IllFormedParametersRefused := by
  unfold Obligations.IllFormedParametersRefused
  intro s hfault hbad
  unfold step checkedStep
  rw [hfault, hbad]
  rfl

/-- Settles O17: the step is the write of the listed word, and a later read gives it at its address only. -/
theorem preloadStepWritesIramOnly : Obligations.PreloadStepWritesIramOnly := by
  unfold Obligations.PreloadStepWritesIramOnly
  intro s a w rest hok hfault hmode hfifo hwf
  refine ⟨Memory.write s.iram a.toNat w, ?_, write_wf hwf a.toNat w, read_write hwf a.toNat w⟩
  rw [step_eq_clockStep hok hfault, clockStep_of_idle hmode, idleStep_of_preload hfifo]

/-- Settles O18: the test for loop control comes before the issue of the word. -/
theorem fifoLoopControlFaults : Obligations.FifoLoopControlFaults := by
  unfold Obligations.FifoLoopControlFaults
  intro s w rest lo hok hfault hmode hfifo hdec hlo
  rw [step_eq_clockStep hok hfault, clockStep_of_idle hmode,
    idleStep_of_loopControl hfifo (isLoopControl_of_decodeLo hdec hlo)]

end

section
/-! How the stages of the sub-instructions can end: which faults they can raise, and what of the state a stage that does
not control the scheduler leaves alone (40_machine.md R150, R162 to R166; 60_exceptions.md R360, R362). -/

namespace Sys2Proof.Machine

/-! ## Outcomes -/

/-- The outcome `o` of an operation on `s`: it goes on with a state that `view` shows as before, or raises a fault of
the list, or `QueueOverflow` where the slots are bounded; it is never refused. -/
structure Answers {α : Type} (view : State → α) (faults : List Fault) (s : State) (o : Res) : Prop where
  of_next : ∀ {t}, o = .next t → view t = view s
  of_fault : ∀ {r}, o = .fault r → r ∈ faults ∨ (r = .queueOverflow ∧ s.params.maxSlotWrites ≠ none)
  not_refused : ∀ {r}, o ≠ .refused r

section Answers

variable {α : Type} {view : State → α} {faults : List Fault} {s : State} {o : Res}

theorem answers_next {t : State} (h : view t = view s) : Answers view faults s (.next t) :=
  ⟨fun ht => Host.Outcome.next.inj ht ▸ h, nofun, nofun⟩

theorem answers_self : Answers view faults s (.next s) := answers_next rfl

theorem answers_fault {r : Fault} (h : r ∈ faults) : Answers view faults s (.fault r) :=
  ⟨nofun, fun hr => Host.Outcome.fault.inj hr ▸ .inl h, nofun⟩

/-- A coarser view and a longer list of faults. -/
theorem Answers.mono {β : Type} {view' : State → β} {faults' : List Fault} (h : Answers view faults s o)
    (hview : ∀ {t}, view t = view s → view' t = view' s) (hfaults : ∀ r ∈ faults, r ∈ faults') :
    Answers view' faults' s o :=
  ⟨fun ht => hview (h.of_next ht), fun hr => (h.of_fault hr).imp_left (hfaults _), h.not_refused⟩

/-- An operation that first changes the state without a fault, and then works as from the changed state. -/
theorem Answers.after {u : State} (h : Answers view faults u o) (hview : view u = view s)
    (hparams : u.params = s.params) : Answers view faults s o :=
  ⟨fun ht => (h.of_next ht).trans hview, fun hr => hparams ▸ h.of_fault hr, h.not_refused⟩

/-- Two operations in turn, where the view shows the parameters. -/
theorem Answers.andThen {f : State → Res} (h : Answers view faults s o)
    (hparams : ∀ {u}, view u = view s → u.params = s.params)
    (hf : ∀ u, o = .next u → Answers view faults u (f u)) : Answers view faults s (andThen o f) := by
  cases o with
  | next u =>
    have hu := h.of_next rfl
    exact (hf u rfl).after hu (hparams hu)
  | fault r => exact ⟨nofun, fun hr => Host.Outcome.fault.inj hr ▸ h.of_fault rfl, nofun⟩
  | refused r => exact absurd rfl h.not_refused

theorem inStage1_answers {handler : State → Res} (h : Answers view faults s (handler s)) :
    Answers view faults s (inStage1 handler s) := by
  unfold inStage1
  split
  · exact h
  · exact answers_self

/-- With unbounded slots and no fault in the list, an operation goes on. -/
theorem Answers.exists_next (h : Answers view [] s o) (hroom : s.params.maxSlotWrites = none) :
    ∃ t, o = .next t := by
  cases o with
  | next t => exact ⟨t, rfl⟩
  | fault r => exact absurd (h.of_fault rfl) (by simp [hroom])
  | refused r => exact absurd rfl h.not_refused

end Answers

/-! ## Stages that only move data -/

/-- What every stage of every sub-instruction leaves alone, with the number of queue slots (40_machine.md R150). -/
def stageView (s : State) : State × Nat := (outsideStage s, s.queue.length)

/-- What a stage leaves alone that only reads registers, moves memory words and schedules writes. -/
def dataView (s : State) : State × Nat :=
  ({ s with lmem := Vector.replicate 4 [], queue := [], cur := StageCtx.idle }, s.queue.length)

/-- Whether a stage of a sub-instruction can act on the scheduler: stage 1 of the transfers and loops (43_control.md),
and issue of `SYNC` and `STOP` (40_machine.md R162). -/
def controlsIn (i : Instr) (stage : Nat) : Bool :=
  match i with
  | .jump .. | .bcc .. | .call .. | .calli .. | .ret | .doLoop .. | .doi .. | .enddo => stage == 1
  | .sync | .stop .. => stage == 0
  | _ => false

theorem controlsIn_of_isHi {i : Instr} (h : i.isHi = true) (stage : Nat) : controlsIn i stage = false := by
  cases i with
  | hnop | fadd | fmul | fmadd | cmadd | fcmpeq | fcmplt | fcmple | fperm | fsin | fcos | frecip | flog2 | fexp2
  | fsqrt => rfl
  | _ => cases h

theorem controlsIn_of_late (i : Instr) {stage : Nat} (h : 2 ≤ stage) : controlsIn i stage = false := by
  cases i with
  | jump | bcc | call | calli | ret | doLoop | doi | enddo =>
    exact beq_eq_false_iff_ne.mpr (Nat.ne_of_gt h)
  | sync | stop => exact beq_eq_false_iff_ne.mpr (Nat.ne_of_gt (Nat.lt_of_succ_lt h))
  | _ => rfl

/-- The writes that a handler schedules change no element that a view without the slots' contents shows. -/
theorem Appends.answers {α : Type} {view : State → α} {faults : List Fault} {late d : Nat} {ws : List PendingWrite}
    {s : State} {o : Res} (h : Appends late d ws s o)
    (hview : ∀ q : List (List PendingWrite), q.length = s.queue.length → view { s with queue := q } = view s) :
    Answers view faults s o := by
  rcases h with ⟨rfl, -⟩ | ⟨rfl, hroom⟩
  · exact answers_next (hview _ List.length_set)
  · refine ⟨nofun, fun hr => ?_, nofun⟩
    cases hr
    exact .inr ⟨rfl, fun hnone => hroom fun n hn => by rw [hnone] at hn; cases hn⟩

theorem Appends.answers_data {late d : Nat} {ws : List PendingWrite} {s : State} {o : Res} (h : Appends late d ws s o) :
    Answers dataView [] s o :=
  h.answers fun q hq => by rw [dataView, hq]; rfl

theorem updateAddress_data (mode : AddrMode) (n : Fin 8) (s : State) :
    Answers dataView [] s (updateAddress mode n s) := by
  cases mode with
  | offset off13 => exact answers_self
  | postModify => exact (sched_appends ..).answers_data

theorem storeWrite_data (dbl : Bool) (s : State) : Answers dataView [] s (.next (storeWrite dbl s)) :=
  answers_next (by rw [storeWrite_eq]; rfl)

theorem loadOp_data (dbl : Bool) (mode : AddrMode) (p : Bool) (cc : Fin 8) (f : Fin 64) (n : Fin 8) (s : State) :
    Answers dataView [] s (loadOp dbl mode p cc f n s) := by
  unfold loadOp
  split
  · exact answers_next rfl
  · exact (updateAddress_data ..).after rfl rfl
  · exact (loadStage3_appends ..).answers_data
  · exact answers_self

theorem storeOp_data (dbl : Bool) (mode : AddrMode) (p : Bool) (cc : Fin 8) (f : Fin 64) (n : Fin 8) (s : State) :
    Answers dataView [] s (storeOp dbl mode p cc f n s) := by
  unfold storeOp
  split
  · exact answers_next rfl
  · exact (updateAddress_data ..).andThen (fun hu => (congrArg (·.1.params) hu :)) fun u _ => storeWrite_data dbl u
  · exact answers_self

theorem execAupd_data (n : Fin 8) (off13 : BitVec 13) (s : State) : Answers dataView [] s (execAupd n off13 s) := by
  unfold execAupd
  split
  · exact answers_next rfl
  · exact (sched_appends ..).answers_data
  · exact answers_self

/-- A stage that does not control the scheduler moves data only, and raises no fault but `QueueOverflow`. -/
theorem exec_data {i : Instr} {s : State} (h : controlsIn i s.cur.stage = false) :
    Answers dataView [] s (exec i s) := by
  cases hact : actsIn i s.cur.stage with
  | false =>
    rw [exec_of_idle hact]
    exact answers_self
  | true =>
    cases i with
    | hnop | lnop => exact answers_self
    | fadd | fmul | fmadd | cmadd | fsin | fcos | frecip | flog2 | fexp2 | fsqrt =>
      exact (execHi_appends (eq_of_beq hact) ..).answers_data
    | fcmpeq | fcmplt | fcmple => exact (execCmp_appends (eq_of_beq hact) ..).answers_data
    | fperm => exact (execFperm_appends (eq_of_beq hact) ..).answers_data
    | ld | ldd | ldm | lddm => exact loadOp_data ..
    | st | std | stm | stdm => exact storeOp_data ..
    | aupd => exact execAupd_data ..
    | seti => exact (execSeti_appends (eq_of_beq hact) ..).answers_data
    | move => exact (execMove_appends (eq_of_beq hact) ..).answers_data
    | stop =>
      have h1 : s.cur.stage = 1 := eq_of_beq ((Bool.or_eq_true_iff.mp hact).resolve_left (Bool.eq_false_iff.mp h))
      exact (execStop_appends h1 _).answers_data
    | _ => exact absurd (h.symm.trans hact) Bool.false_ne_true

/-! ## Every stage -/

/-- The faults that stage 1 of a loop sub-instruction can raise (60_exceptions.md R362). -/
def loopFaults : List Fault := [.loopControlInDelaySlot, .loopBodyTooShort, .nestedLoopEnd, .endDoConflict]

theorem Appends.answers_stage {late d : Nat} {ws : List PendingWrite} {s : State} {o : Res}
    (h : Appends late d ws s o) :
    Answers stageView loopFaults s o :=
  h.answers fun q hq => by rw [stageView, hq]; rfl

theorem execBcc_answers (all : Bool) (cc : Fin 8) (a : Addr) (s : State) :
    Answers stageView loopFaults s (execBcc all cc a s) := by
  refine inStage1_answers ?_
  unfold bccHandler
  split
  · exact answers_next rfl
  · exact answers_self

theorem doCommon_answers (stop : Addr) (n : BitVec 32) (s : State) :
    Answers stageView loopFaults s (doCommon stop n s) := by
  unfold doCommon
  split
  · exact answers_fault (by decide)
  split
  · exact answers_fault (by decide)
  split
  · exact answers_fault (by decide)
  split
  · exact answers_next rfl
  split
  · exact (setStickyAt_appends ..).answers_stage
  · exact (loopPush_appends ..).answers_stage.after rfl rfl

theorem execEnddo_answers (s : State) : Answers stageView loopFaults s (execEnddo s) := by
  refine inStage1_answers ?_
  unfold enddoHandler
  split
  · exact answers_fault (by decide)
  split
  · exact answers_fault (by decide)
  split
  · exact (setStickyAt_appends ..).answers_stage
  · exact (loopPop_appends ..).answers_stage.after rfl rfl

/-- No stage of a sub-instruction raises a fault but those of the loops and `QueueOverflow`, and none changes what
`stageView` shows (40_machine.md R150; 60_exceptions.md R360, R362). -/
theorem exec_answers (i : Instr) (s : State) : Answers stageView loopFaults s (exec i s) := by
  cases hctl : controlsIn i s.cur.stage with
  | false =>
    refine (exec_data hctl).mono (fun {t} ht => ?_) (fun _ h => absurd h List.not_mem_nil)
    exact congrArg (fun v : State × Nat => (outsideStage v.1, v.2)) ht
  | true =>
    cases i with
    | jump | call | calli | ret => exact inStage1_answers (answers_next rfl)
    | bcc => exact execBcc_answers ..
    | doLoop | doi => exact inStage1_answers (doCommon_answers ..)
    | enddo => exact execEnddo_answers s
    | sync =>
      have hexec : exec .sync s = .next (startDrain .sync s) := execSync_of_issue (eq_of_beq hctl)
      rw [hexec]
      exact answers_next rfl
    | stop code =>
      have hexec : exec (.stop code) s = .next (startDrain .stop s) := execStop_of_issue (eq_of_beq hctl) code
      rw [hexec]
      exact answers_next rfl
    | _ => cases hctl

theorem rfRead_outsideStage (r : Reg) (s : State) : rfRead r (outsideStage s) = rfRead r s := by cases r <;> rfl

end Sys2Proof.Machine

open Sys2Proof.Machine

/-- Settles O20: each element is read off `stageView`. -/
theorem execKeepsCommittedState : Obligations.ExecKeepsCommittedState := by
  unfold Obligations.ExecKeepsCommittedState
  intro i s t h
  have hview : stageView t = stageView s := (exec_answers i s).of_next h
  obtain ⟨hstage, hslots⟩ := Prod.mk.inj hview
  refine ⟨fun r => ?_, (congrArg State.commOrigin hstage :), (congrArg State.params hstage :),
    (congrArg State.iram hstage :), (congrArg State.fifo hstage :), (congrArg State.callstk hstage :),
    (congrArg State.callDepth hstage :), (congrArg State.calpipe hstage :), (congrArg State.lmempipe hstage :),
    (congrArg State.cycle hstage :), (congrArg State.xferPending hstage :), (congrArg State.popPending hstage :),
    (congrArg State.samelog hstage :), (congrArg State.fault hstage :), hslots⟩
  rw [← rfRead_outsideStage, hstage, rfRead_outsideStage]

end

section
/-! How a step can end (40_machine.md R153, R167, R184, R185; 60_exceptions.md R360, R362): the pipelines have room for
the word it issues, its faults are those of the program, and a drain runs to its end. -/

namespace Sys2Proof.Machine

/-! ## Room in the pipelines -/

/-- A pipeline in good order holds fewer entries than it has stages: no two are in the same stage (40_machine.md R167).
-/
theorem InFlight.length_lt {hi : Bool} {last cycle : Nat} {es : List PipeTag} (h : InFlight hi last 1 cycle es)
    (hlast : 0 < last) : es.length < last := by
  have hnodup : (es.map PipeTag.stage).Nodup := by
    rw [List.nodup_iff_pairwise_ne, List.pairwise_map]
    refine h.rising.imp_of_mem fun {a b} ha hb hlt heq => ?_
    obtain ⟨hsuma, -, -⟩ := h.staged a ha
    obtain ⟨hsumb, -, -⟩ := h.staged b hb
    omega
  have hsub : es.map PipeTag.stage ⊆ List.range' 1 (last - 1) := by
    intro n hn
    obtain ⟨e, he, rfl⟩ := List.mem_map.mp hn
    obtain ⟨-, hpos, hlt⟩ := h.staged e he
    exact List.mem_range'_1.mpr ⟨hpos, by omega⟩
  have hle := (hnodup.subperm hsub).length_le
  rw [List.length_map, List.length_range'] at hle
  omega

theorem Inv.calRoom {s : State} (h : Inv s) : s.calpipe.length < calSlots := by
  have hlt := h.calInFlight.length_lt (by decide)
  rw [List.length_map] at hlt
  exact Nat.lt_succ_of_lt hlt

theorem Inv.lmemRoom {s : State} (h : Inv s) : s.lmempipe.length < lmemSlots := by
  have hlt := h.lmemInFlight.length_lt (by decide)
  rw [List.length_map] at hlt
  exact Nat.lt_succ_of_lt hlt

/-! ## The shifts -/

section Shifts

variable {α : Type} {view : State → α} {faults : List Fault} {ds : Bool}

/-- `Shift(calpipe)` ends as the stages of its entries can end. -/
theorem shiftCalFrom_answers (hparams : ∀ {u v}, view u = view v → u.params = v.params)
    (hpipe : ∀ u c p, view { u with cur := c, calpipe := p } = view u) {es : List CalEntry}
    (hexec : ∀ e ∈ es, ∀ u, Answers view faults u (runStage e.op (e.stage + 1) ds (Latch.fresh 0) u))
    (done : List CalEntry) (s : State) : Answers view faults s (shiftCalFrom ds es done s) := by
  induction es generalizing done s with
  | nil => exact answers_next (hpipe s StageCtx.idle done.reverse)
  | cons e es ih =>
    obtain ⟨he, hes⟩ := List.forall_mem_cons.mp hexec
    refine Answers.andThen ?_ hparams fun u _ => ih hes _ u
    split
    · exact answers_self
    · exact he s

/-- `Shift(lmempipe)` ends as the stages of its entries can end. -/
theorem shiftLmemFrom_answers (hparams : ∀ {u v}, view u = view v → u.params = v.params)
    (hpipe : ∀ u c p, view { u with cur := c, lmempipe := p } = view u) {es : List LmemEntry}
    (hexec : ∀ e ∈ es, ∀ u, Answers view faults u (runStage e.op (e.stage + 1) ds e.latch u))
    (done : List LmemEntry) (s : State) : Answers view faults s (shiftLmemFrom ds es done s) := by
  induction es generalizing done s with
  | nil => exact answers_next (hpipe s StageCtx.idle done.reverse)
  | cons e es ih =>
    obtain ⟨he, hes⟩ := List.forall_mem_cons.mp hexec
    refine Answers.andThen ?_ hparams fun u _ => ih hes _ u
    split
    · exact answers_next (hpipe s _ s.lmempipe)
    · exact he s

end Shifts

/-- What shifts leave alone whose stages do not control the scheduler: registers, stacks, drain and transfers. -/
def shiftView (s : State) : State :=
  { s with
    calpipe := [], lmempipe := [], lmem := Vector.replicate 4 [], queue := [], cur := StageCtx.idle }

theorem shiftView_params {u v : State} (h : shiftView u = shiftView v) : u.params = v.params :=
  (congrArg State.params h :)

theorem runStage_data {i : Instr} {stage : Nat} (h : controlsIn i stage = false) (ds : Bool) (l : Latch) (s : State) :
    Answers shiftView [] s (runStage i stage ds l s) := by
  have hdata : Answers dataView [] _ (exec i (stageState stage ds l s)) := exec_data h
  refine Answers.after (u := stageState stage ds l s) (hdata.mono (fun {t} ht => ?_) fun _ => id) rfl rfl
  exact congrArg (fun v : State × Nat => shiftView v.1) ht

/-- The shift of an arithmetic pipeline never controls the scheduler (40_machine.md R164). -/
theorem shiftCal_data {s : State} (h : ∀ e ∈ s.calpipe, e.op.isHi = true) (ds : Bool) :
    Answers shiftView [] s (shiftCal ds s) :=
  shiftCalFrom_answers shiftView_params (fun _ _ _ => rfl)
    (fun e he u => runStage_data (controlsIn_of_isHi (h e he) _) ds _ u) [] s

theorem shiftLmem_data {s : State} (h : ∀ e ∈ s.lmempipe, 1 ≤ e.stage) (ds : Bool) :
    Answers shiftView [] s (shiftLmem ds s) :=
  shiftLmemFrom_answers shiftView_params (fun _ _ _ => rfl)
    (fun e he u => runStage_data (controlsIn_of_late _ (Nat.succ_le_succ (h e he))) ds _ u) [] s

/-! ## Draining steps -/

theorem commitPhase_xferReq (s : State) : (commitPhase s).xferReq = s.xferReq :=
  (congrArg State.xferReq (commitPhase_outside s) :)

/-- A drain ends its steps without a PC update, and without a request there is nothing to latch (40_machine.md R181,
R185). -/
theorem finishStep_draining {s : State} (h : s.xferReq = none) (ds : Bool) (pc0 : Addr) :
    finishStep .draining false ds pc0 s = .next (tick (commitPhase s)) := by
  have hnone : (commitPhase s).xferReq = none := (commitPhase_xferReq s).trans h
  unfold finishStep
  simp only [Bool.false_or, bne_self_eq_false, Bool.and_false, Bool.false_eq_true, if_false, andThen_next]
  unfold latchXfer
  rw [hnone, andThen_next]

theorem drainDispatch_keeps (s : State) :
    (drainDispatch s).calpipe = s.calpipe ∧ (drainDispatch s).lmempipe = s.lmempipe ∧
      (drainDispatch s).cycle = s.cycle ∧ (drainDispatch s).pc = s.pc := by
  rw [drainDispatch_eq]
  exact ⟨rfl, rfl, rfl, rfl⟩

/-- The two shifts of a draining step act on entries beyond stage 1 only (40_machine.md R167, R184). -/
theorem drain_shifts_data {s : State} (hs : Inv s) :
    Answers shiftView [] (drainDispatch s)
      (andThen (shiftCal false (drainDispatch s)) (shiftLmem false)) := by
  obtain ⟨hcal, hlmem, -, -⟩ := drainDispatch_keeps s
  have hhi : ∀ e ∈ (drainDispatch s).calpipe, e.op.isHi = true := by
    rw [hcal]
    exact fun e he => (hs.calOps e he).1
  have hstages : ∀ e ∈ s.lmempipe, 1 ≤ e.stage := fun e he =>
    (hs.lmemInFlight.staged e.tag (List.mem_map_of_mem he)).2.1
  refine (shiftCal_data hhi false).andThen shiftView_params fun u hu => shiftLmem_data ?_ false
  obtain ⟨-, houtside, -⟩ := shiftCalFrom_next hu
  have hlmemu : u.lmempipe = (drainDispatch s).lmempipe := (congrArg State.lmempipe houtside :)
  rw [hlmemu, hlmem]
  exact hstages

theorem clockStep_draining {s : State} (hk : s.drain.kind ≠ .none) :
    clockStep s = runPhases .draining false false s.pc (drainDispatch s) := by
  have hmode : modeOf s = .draining := if_pos hk
  unfold clockStep
  rw [hmode]

/-- Phases 2 to 6 of a draining step are the two shifts, the commit and the count (40_machine.md R181, R184, R185). -/
theorem runPhases_draining {s : State} (hs : Inv s) :
    runPhases .draining false false s.pc (drainDispatch s) =
      andThen (andThen (shiftCal false (drainDispatch s)) (shiftLmem false)) fun u => .next (tick (commitPhase u)) := by
  rw [runPhases, ← andThen_assoc]
  refine andThen_congr fun u hu => finishStep_draining ?_ ..
  have hreq : u.xferReq = (drainDispatch s).xferReq := (congrArg State.xferReq ((drain_shifts_data hs).of_next hu) :)
  rw [hreq, drainDispatch_eq]
  exact hs.noRequest

/-- A draining step keeps the PC and the elements beside registers, pipelines and queue as its dispatch leaves them. -/
theorem runPhases_draining_view {s t : State} (hs : Inv s)
    (h : runPhases .draining false false s.pc (drainDispatch s) = .next t) :
    t.pc = s.pc ∧ shiftView (outsideCommit t) = shiftView (outsideCommit (tick (drainDispatch s))) := by
  rw [runPhases_draining hs] at h
  obtain ⟨u, hu, h⟩ := andThen_eq_next h
  cases h
  have hshift := (drain_shifts_data hs).of_next hu
  obtain ⟨-, -, -, hpc⟩ := drainDispatch_keeps s
  exact ⟨(commitPhase_pc u).trans ((congrArg State.pc hshift :).trans hpc),
    (congrArg (fun v => shiftView (tick v)) (commitPhase_outside u)).trans
      (congrArg (fun v => outsideCommit (tick v)) hshift)⟩

/-- A draining step adds no pipeline entry (40_machine.md R184). -/
theorem runPhases_draining_ticket_lt {s t : State} (hs : Inv s)
    (h : runPhases .draining false false s.pc (drainDispatch s) = .next t) :
    (∀ e ∈ t.calpipe, e.ticket < s.cycle) ∧ ∀ e ∈ t.lmempipe, e.ticket < s.cycle := by
  have hcal := hs.calInFlight
  have hlmem := hs.lmemInFlight
  obtain ⟨hcalpipe, hlmempipe, hcycle, -⟩ := drainDispatch_keeps s
  rw [← hcalpipe, ← hcycle] at hcal
  rw [← hlmempipe, ← hcycle] at hlmem
  rw [← hcycle]
  exact runPhases_ticket_lt hcal hlmem h

theorem step_eq_clockStep_of_inv {s : State} (hs : Inv s) : step s = clockStep s :=
  step_eq_clockStep hs.params hs.noFault

/-- What the dispatch of a draining step does to the drain (40_machine.md R184). -/
theorem drainDispatch_drain {s : State} (h : s.drain.count ≠ 0) :
    (drainDispatch s).drain =
      if s.drain.count = 1 then { kind := .none, count := 0 }
      else { kind := s.drain.kind, count := s.drain.count - 1 } := by
  have hone : s.drain.count - 1 = 0 ↔ s.drain.count = 1 := by omega
  unfold drainDispatch
  simp only [hone]
  split
  · rfl
  · rfl

/-- What the dispatch of a draining step does to RUN (40_machine.md R184). -/
theorem drainDispatch_running {s : State} (h : s.drain.count ≠ 0) :
    running (drainDispatch s) =
      (running s && !(decide (s.drain.kind = .stop) && decide (s.drain.count = 1))) := by
  have hone : s.drain.count - 1 = 0 ↔ s.drain.count = 1 := by omega
  unfold drainDispatch
  simp only [hone]
  split
  next hcount =>
    split
    next hstop =>
      rw [hstop, hcount]
      exact (running_clearRun s).trans (Bool.and_false _).symm
    next hkind =>
      rw [decide_eq_false hkind]
      exact (Bool.and_true _).symm
  next hcount =>
    rw [decide_eq_false hcount, Bool.and_false]
    exact (Bool.and_true _).symm

/-! ## The faults of the other steps -/

/-- The faults that the spec names for program or FIFO contents (60_exceptions.md R360, R362). -/
def programFaults : List Fault :=
  [.unknownOpcode, .transferInDelaySlot, .pcConflict, .loopBodyTooShort, .nestedLoopEnd, .loopControlInDelaySlot,
    .endDoConflict, .fifoLoopControl]

theorem loopFaults_program : ∀ r ∈ loopFaults, r ∈ programFaults := by decide

theorem Appends.answers_program {late d : Nat} {ws : List PendingWrite} {s : State} {o : Res}
    (h : Appends late d ws s o) :
    Answers State.params programFaults s o := h.answers fun _ _ => rfl

theorem runStage_program (i : Instr) (stage : Nat) (ds : Bool) (l : Latch) (s : State) :
    Answers State.params programFaults s (runStage i stage ds l s) := by
  refine Answers.after (u := stageState stage ds l s) ?_ rfl rfl
  exact (exec_answers i _).mono (fun ht => (congrArg (·.1.params) ht :)) loopFaults_program

/-- Issue into pipelines with room can only fail to decode (40_machine.md R162, R167). -/
theorem issue_program {s : State} (hcal : s.calpipe.length < calSlots) (hlmem : s.lmempipe.length < lmemSlots)
    (w : Word) (a : Addr) : Answers State.params programFaults s (issue w a s) := by
  unfold issue
  split
  · exact answers_fault (by decide)
  next hi lo _ =>
    rw [issuePair_of_room hcal hlmem]
    split
    · exact answers_next rfl
    · refine Answers.after (u := withPushed hi lo a s) ?_ rfl rfl
      exact (runStage_program ..).andThen id fun u _ =>
        (runStage_program ..).andThen id fun v _ => answers_next rfl

theorem applyTransfer_program (x : Xfer) (pc0 : Addr) (s : State) :
    Answers State.params programFaults s (applyTransfer x pc0 s) := by
  unfold applyTransfer
  split
  · exact answers_next rfl
  · exact answers_next rfl
  · refine Answers.andThen ?_ id fun u _ => answers_next rfl
    by_cases hdepth : s.callDepth < s.params.callMaxDepth
    · exact (callPush_appends hdepth _).answers_program.after rfl rfl
    · exact (callPush_full hdepth _).answers_program
  · split
    · exact (schedAt_appends ..).answers_program.after rfl rfl
    · exact (setStickyAt_appends ..).answers_program.andThen id fun u _ => answers_next rfl

theorem loopEnd_program (pc0 : Addr) (s : State) : Answers State.params programFaults s (loopEnd pc0 s) := by
  have hmirror : Answers State.params programFaults s (mirrorLc 1 ((topFrame s).count - 1) (countedDown s)) :=
    (mirrorLc_appends ..).answers_program.after rfl rfl
  refine hmirror.andThen id fun u _ => ?_
  split
  · exact answers_next rfl
  split
  · exact answers_fault (by decide)
  · exact answers_next rfl

theorem pcUpdate_program (pc0 : Addr) (mode : Mode) (s : State) :
    Answers State.params programFaults s (pcUpdate pc0 mode s) := by
  unfold pcUpdate
  split
  · split
    · exact answers_fault (by decide)
    · have hpop : Answers State.params programFaults s (loopPop 1 s) :=
        (loopPop_appends 1 s).answers_program.after rfl rfl
      exact hpop.andThen id fun u _ => answers_next rfl
  split
  · exact (applyTransfer_program ..).after rfl rfl
  split
  · exact loopEnd_program ..
  · exact answers_next rfl

theorem latchXfer_program (ds : Bool) (s : State) : Answers State.params programFaults s (latchXfer ds s) := by
  unfold latchXfer
  split
  · exact answers_self
  split
  · exact answers_fault (by decide)
  split
  · exact answers_fault (by decide)
  · exact answers_next rfl

theorem finishStep_program (mode : Mode) (update ds : Bool) (pc0 : Addr) (s : State) :
    Answers State.params programFaults s (finishStep mode update ds pc0 s) := by
  have hparams : (commitPhase s).params = s.params := (congrArg State.params (commitPhase_outside s) :)
  refine Answers.after (u := commitPhase s) ?_ hparams hparams
  refine Answers.andThen ?_ id fun u _ => (latchXfer_program ds u).andThen id fun v _ => answers_next rfl
  split
  · exact pcUpdate_program ..
  · exact answers_self

theorem runPhases_program (mode : Mode) (update ds : Bool) (pc0 : Addr) (s : State) :
    Answers State.params programFaults s (runPhases mode update ds pc0 s) :=
  (shiftCalFrom_answers id (fun _ _ _ => rfl) (fun _ _ u => runStage_program _ _ _ _ u) [] s).andThen id fun u _ =>
    (shiftLmemFrom_answers id (fun _ _ _ => rfl) (fun _ _ u => runStage_program _ _ _ _ u) [] u).andThen id fun _ _ =>
      finishStep_program ..

/-- A step from a state of the invariant goes on, or raises a fault of the program or FIFO contents, or `QueueOverflow`
where the slots are bounded. -/
theorem clockStep_program {s : State} (hs : Inv s) : Answers State.params programFaults s (clockStep s) := by
  unfold clockStep
  split
  · have hparams : (drainDispatch s).params = s.params := by rw [drainDispatch_eq]
    exact (runPhases_program ..).after hparams hparams
  · unfold runningStep
    split
    · exact (runPhases_program ..).after rfl rfl
    · exact (issue_program hs.calRoom hs.lmemRoom ..).andThen id fun u _ => runPhases_program ..
  · unfold idleStep
    split
    · exact runPhases_program ..
    · exact answers_next rfl
    · split
      · exact answers_fault (by decide)
      next w rest _ _ =>
        have hissue : Answers State.params programFaults s (issue w s.pc { s with fifo := rest }) :=
          (issue_program (s := { s with fifo := rest }) hs.calRoom hs.lmemRoom w s.pc).after rfl rfl
        exact hissue.andThen id fun u _ => runPhases_program ..

end Sys2Proof.Machine

open Sys2Proof.Machine

/-- Settles O14: the pipelines have room for an issued word, no phase raises another fault, and the shifts of a drain
raise none. -/
theorem onlyProgramFaults : Obligations.OnlyProgramFaults := by
  unfold Obligations.OnlyProgramFaults
  intro s hs
  have hstep := step_eq_clockStep_of_inv hs
  have hans : Answers State.params programFaults s (step s) := hstep ▸ clockStep_program hs
  refine ⟨fun hover => ?_, fun hroom => ⟨?_, fun hk => ?_⟩⟩
  · rcases hans.of_fault hover with hmem | ⟨heq, -⟩
    · exact absurd hmem (by decide)
    · cases heq
  · cases hout : step s with
    | next t => exact .inl ⟨t, rfl⟩
    | fault r =>
      rcases hans.of_fault hout with hmem | ⟨-, hbounded⟩
      · exact .inr ⟨r, hmem, rfl⟩
      · exact absurd hroom hbounded
    | refused r => exact absurd hout hans.not_refused
  · have hdrain : (drainDispatch s).params.maxSlotWrites = none := by
      rw [drainDispatch_eq]
      exact hroom
    obtain ⟨u, hu⟩ := (drain_shifts_data hs).exists_next hdrain
    rw [hstep, clockStep_draining hk, runPhases_draining hs, hu]
    exact ⟨_, rfl⟩

/-- Settles O15: beside the dispatch, a draining step is two shifts of entries beyond stage 1, a commit and a count. -/
theorem drainStep : Obligations.DrainStep := by
  unfold Obligations.DrainStep
  intro s t hs hk h
  have hcount : s.drain.count ≠ 0 := fun hzero => hk (hs.drain.1.mpr hzero)
  have hcore : CoreInv (drainDispatch s) := (hs.phaseInv.drainDispatch hk).toCoreInv
  rw [step_eq_clockStep_of_inv hs, clockStep_draining hk] at h
  obtain ⟨hpc, hview⟩ := runPhases_draining_view hs h
  obtain ⟨hcal, hlmem⟩ := runPhases_draining_ticket_lt hs h
  have hdrain : t.drain = (drainDispatch s).drain := (congrArg State.drain hview :)
  rw [drainDispatch_eq] at hview
  exact ⟨hpc, (congrArg State.xferPending hview :), (congrArg State.popPending hview :), (congrArg State.fifo hview :),
    hcal, hlmem, hdrain.trans (drainDispatch_drain hcount),
    (runPhases_running hcore h).trans (drainDispatch_running hcount)⟩

end

section
/-! The step that issues a sub-instruction whose write commits in the same step (40_machine.md R151, R154, R181;
43_control.md R302; 44_moves.md R345): the issued lo half is the last to schedule, so its write is the last that the
head slot commits. -/

namespace Sys2Proof.Machine

/-! ## The last write of the head slot -/

/-- The committed registers after the commit phase, where a write comes last in the head slot (40_machine.md R154). -/
theorem rfRead_commitPhase_last {s : State} {ws : List PendingWrite} {w : PendingWrite}
    (h : slot (s.cycle % s.params.queueDepth) s = ws ++ [w]) :
    ∃ u, ∀ r, rfRead r (commitPhase s) = rfRead r (commitValue w.reg w.value w.mask w.origin u) := by
  refine ⟨ws.foldl (fun t w => commitWrite w t) { s with samelog := [] }, fun r => ?_⟩
  rw [commitPhase_eq, h, List.foldl_append, ← rfRead_commitWrite]
  cases r <;> rfl

/-- A mask of all ones of a width covers what a value of that width replaces. -/
theorem merge_and_mask (old v m : Word) : merge old v m &&& m = v &&& m := by
  unfold merge
  ext i hi
  cases hm : m[i] <;> simp [hm]

/-- A write of the core over all writable bits, scheduled last for the step that commits it, is what its register holds
after the commit phase (40_machine.md R151, R154). -/
theorem rfRead_commitPhase_scheduled {s : State} (hs : CoreInv s) {r : Reg} {m : Word}
    (hm : m &&& writeBits r .core = regBits r) (v : Word) (b : Bool) :
    rfRead r (commitPhase (scheduled 0 0 [coreWrite r v m b s] s)) = v &&& regBits r := by
  have hslot := slot_scheduled 0 0 [coreWrite r v m b s] s (s.cycle % s.params.queueDepth)
  rw [if_pos ⟨rfl, hs.slotIndex_lt 0 0⟩] at hslot
  obtain ⟨u, hu⟩ := rfRead_commitPhase_last (s := scheduled 0 0 [coreWrite r v m b s] s) hslot
  rw [hu r]
  show rfRead r (commitValue r v m .core u) = _
  rw [rfRead_commitValue_same, hm, merge_and_mask]

/-! ## The issued lo half comes last in its step -/

/-- Entries whose stages do not control the scheduler, at the front of the pipeline, leave the rest of the shift to a
state that agrees in what `shiftView` shows (40_machine.md R163). -/
theorem shiftLmemFrom_append {ds : Bool} {es es' done : List LmemEntry} {s t : State}
    (hstages : ∀ e ∈ es, 1 ≤ e.stage) (h : shiftLmemFrom ds (es ++ es') done s = .next t) :
    ∃ done' u, shiftView u = shiftView s ∧ (CoreInv s → CoreInv u) ∧ shiftLmemFrom ds es' done' u = .next t := by
  induction es generalizing done s with
  | nil => exact ⟨done, s, rfl, id, h⟩
  | cons e es ih =>
    obtain ⟨he, hes⟩ := List.forall_mem_cons.mp hstages
    obtain ⟨v, hv, h⟩ := andThen_eq_next h
    obtain ⟨done', u, hview, hcore, hrest⟩ := ih hes h
    have hfirst : shiftView v = shiftView s ∧ (CoreInv s → CoreInv v) := by
      split at hv
      · cases hv
        exact ⟨rfl, fun h => { h with }⟩
      · have hctl := controlsIn_of_late e.op (Nat.succ_le_succ he)
        exact ⟨(runStage_data hctl ds e.latch s).of_next hv, ((runStage_keeps ..).of_next hv).2⟩
    obtain ⟨hviewv, hcorev⟩ := hfirst
    exact ⟨done', u, hview.trans hviewv, hcore ∘ hcorev, hrest⟩

/-- The two shifts of a step that has issued a word from a state of the invariant: every stage but stage 1 of the lo
half leaves what `shiftView` shows, and that stage comes last (40_machine.md R163, R181). -/
theorem shifts_lo_last {ds : Bool} {s t : State} {es : List LmemEntry} {e : LmemEntry}
    (hhi : ∀ c ∈ s.calpipe, c.op.isHi = true) (hstages : ∀ e ∈ es, 1 ≤ e.stage) (hpipe : s.lmempipe = es ++ [e])
    (hstage : e.stage = 0) (hlive : e.annulled = false)
    (h : andThen (shiftCal ds s) (shiftLmem ds) = .next t) :
    ∃ u v, shiftView u = shiftView s ∧ (CoreInv s → CoreInv u) ∧
      exec e.op (stageState 1 ds e.latch u) = .next v ∧ ∃ p, t = clearCur { v with lmempipe := p } := by
  obtain ⟨c, hc, h⟩ := andThen_eq_next h
  obtain ⟨-, houtside, hcorec⟩ := shiftCalFrom_next hc
  have hpipec : c.lmempipe = s.lmempipe := (congrArg State.lmempipe houtside :)
  rw [shiftLmem, hpipec, hpipe] at h
  obtain ⟨done, u, hview, hcore, h⟩ := shiftLmemFrom_append hstages h
  obtain ⟨v, hv, h⟩ := andThen_eq_next h
  rw [hlive, if_neg Bool.false_ne_true, hstage] at hv
  cases h
  exact ⟨u, v, hview.trans ((shiftCal_data hhi ds).of_next hc), hcore ∘ hcorec, hv, _, rfl⟩

/-- A step that issues a live word: issue leaves `a`, stage 1 of the lo half comes last in the shifts and leaves `v`,
and the end of the step follows (40_machine.md R162, R163, R181). -/
theorem step_issues_lo {hi lo : Instr} {s t : State} (hs : Inv s) (hf : Fetches hi lo s) (hann : s.annulNext = false)
    (h : step s = .next t) :
    ∃ a u v p, exec lo (stageState 0 false (Latch.fresh s.pc) (withPushed hi lo s.pc s)) = .next a ∧
      shiftView u = shiftView a ∧ CoreInv u ∧
      exec lo (stageState 1 s.xferPending.isSome (Latch.fresh s.pc) u) = .next v ∧
      finishStep .running true s.xferPending.isSome s.pc (clearCur { v with lmempipe := p }) = .next t := by
  have hhi : hi.isHi = true := by
    obtain ⟨-, -, -, -, hdec⟩ := hf
    exact (decodeHi_wellFormed (decodeWord_eq_ok hdec).1).1
  rw [step_of_fetches hf, issuePair_of_room hs.calRoom hs.lmemRoom, hann, if_neg Bool.false_ne_true,
    issueStage0_eq hhi, andThen_assoc] at h
  obtain ⟨a, ha, h⟩ := andThen_eq_next h
  rw [andThen_next, runPhases, ← andThen_assoc] at h
  obtain ⟨b, hb, hfin⟩ := andThen_eq_next h
  obtain ⟨hview, hcore⟩ := (exec_keeps ..).of_next ha
  have hcal : a.calpipe = (withPushed hi lo s.pc s).calpipe := (congrArg State.calpipe hview :)
  have hlmem : a.lmempipe = (withPushed hi lo s.pc s).lmempipe := (congrArg State.lmempipe hview :)
  have hcorea : CoreInv a := hcore { hs.toCoreInv with }
  have hops : ∀ c ∈ (clearCur a).calpipe, c.op.isHi = true := by
    intro c hc
    rw [clearCur_calpipe, hcal] at hc
    rcases List.mem_append.mp hc with hc | hc
    · exact (hs.calOps c hc).1
    · obtain rfl := List.mem_singleton.mp hc
      exact hhi
  have hstages : ∀ e ∈ s.lmempipe, 1 ≤ e.stage := fun e he =>
    (hs.lmemInFlight.staged e.tag (List.mem_map_of_mem he)).2.1
  obtain ⟨u, v, hviewu, hcoreu, hv, p, rfl⟩ := shifts_lo_last (s := clearCur a) hops hstages hlmem rfl hann hb
  exact ⟨a, u, v, p, ha, hviewu, hcoreu { hcorea with }, hv, hfin⟩

/-- The end of a step leaves a register, other than by its commits, as it was; the PC is the exception. -/
theorem finishStep_rfRead {mode : Mode} {update ds : Bool} {pc0 : Addr} {s t : State} {r : Reg} (hr : r ≠ .pc)
    (h : finishStep mode update ds pc0 s = .next t) : rfRead r t = rfRead r (commitPhase s) := by
  obtain ⟨hview, -⟩ := finishStep_next h
  have hblank : ∀ u : State, rfRead r (outsidePcUpdate u) = rfRead r u := fun u => by
    cases r with
    | pc => exact absurd rfl hr
    | _ => rfl
  rw [← hblank, hview, hblank]
  cases r <;> rfl

/-- A write that the issued lo half schedules in stage 1 for its own step, over all writable bits of a register, is what
the register holds after the step, whatever else is in flight (40_machine.md R151, R154; 44_moves.md R345). -/
theorem step_commits_lo_write {hi lo : Instr} {s t : State} {r : Reg} {v m : Word} (hs : Inv s) (hf : Fetches hi lo s)
    (hann : s.annulNext = false) (hr : r ≠ .pc) (hm : m &&& writeBits r .core = regBits r)
    (hlo : ∀ u : State, u.params = s.params → u.cur.stage = 1 →
      Appends 0 0 [coreWrite r v m true u] u (exec lo u))
    (h : step s = .next t) : rfRead r t = v &&& regBits r := by
  obtain ⟨a, u, w, p, ha, hview, hcore, hw, hfin⟩ := step_issues_lo hs hf hann h
  obtain ⟨hissue, -⟩ := (exec_keeps ..).of_next ha
  have hparams : u.params = s.params := (shiftView_params hview).trans (congrArg State.params hissue :)
  obtain ⟨rfl, -⟩ := (hw ▸ hlo (stageState 1 s.xferPending.isSome (Latch.fresh s.pc) u) hparams rfl).eq_of_next
  rw [finishStep_rfRead hr hfin]
  exact rfRead_commitPhase_scheduled (s := clearCur { u with lmempipe := p }) { hcore with } hm v true

/-! ## The end of a step without transfers and loops -/

/-- With nothing pending and no loop the PC goes on to the next address (40_machine.md R190). -/
theorem finishStep_pc_next {ds : Bool} {pc0 : Addr} {s t : State} (hpop : s.popPending = false)
    (hpend : s.xferPending = none) (hdepth : s.loopDepth = 0)
    (h : finishStep .running true ds pc0 s = .next t) : t.pc = pc0 + 1 := by
  have hview := commitPhase_outside s
  have hpop' : (commitPhase s).popPending = false := (congrArg State.popPending hview :).trans hpop
  have hpend' : (commitPhase s).xferPending = none := (congrArg State.xferPending hview :).trans hpend
  have hdepth' : (commitPhase s).loopDepth = 0 := (congrArg State.loopDepth hview :).trans hdepth
  obtain ⟨u, hu, h⟩ := andThen_eq_next h
  obtain ⟨v, hv, h⟩ := andThen_eq_next h
  cases h
  rw [Bool.true_or, if_pos rfl, pcUpdate_noTransfer hpop' hpend', hdepth',
    if_neg fun hend => Nat.lt_irrefl 0 hend.2.1] at hu
  cases hu
  exact (latchXfer_pc hv :)

/-- The end of a step leaves RUN: no pending write of the core reaches it (10_state.md R31). -/
theorem finishStep_running {mode : Mode} {update ds : Bool} {pc0 : Addr} {s t : State} (hs : CoreInv s)
    (h : finishStep mode update ds pc0 s = .next t) : running t = running s := by
  obtain ⟨hview, -⟩ := finishStep_next h
  exact (congrArg running hview :).trans hs.commitPhase_running

theorem running_of_modeOf {s : State} (h : modeOf s = .running) : running s = true := by
  unfold modeOf at h
  split at h
  · cases h
  split at h
  · assumption
  · cases h

theorem shiftView_startDrain (kind : DrainKind) (s : State) :
    shiftView (startDrain kind s) = startDrain kind (shiftView s) := rfl

theorem shiftView_stageState (stage : Nat) (ds : Bool) (l : Latch) (s : State) :
    shiftView (stageState stage ds l s) = shiftView s := rfl

theorem shiftView_withPushed (hi lo : Instr) (a : Addr) (s : State) :
    shiftView (withPushed hi lo a s) = { shiftView s with annulNext := false } := rfl

theorem exec_stop_at_issue (code : BitVec 16) (ds : Bool) (l : Latch) (s : State) :
    exec (.stop code) (stageState 0 ds l s) = .next (startDrain .stop (stageState 0 ds l s)) :=
  execStop_of_issue (s := stageState 0 ds l s) rfl code

theorem targetWrites_gpr (g : Fin 16) (v m : Word) (all : Bool) (sec : Sec) (s : State) :
    targetWrites (.gpr g) v m all sec s = [coreWrite (.gpr g) v (m &&& 0xFFFFFFFF) true s] := rfl

/-- What stage 1 of `SETI` of a general register can do (44_moves.md R342). -/
theorem exec_seti_gpr_appends {s : State} (h : s.cur.stage = 1) (g : Fin 16) (imm16 : BitVec 16) :
    Appends 0 s.params.moveDelay
      [coreWrite (.gpr g) (imm16.setWidth 64 &&& ones (.gpr g)) (ones (.gpr g) &&& 0xFFFFFFFF) true s] s
      (exec (.seti (.gpr g) false imm16) s) := by
  have happ := execSeti_appends h (.gpr g) false imm16
  rw [targetWrites_gpr] at happ
  exact happ

/-- A 32-bit register that reads as a zero-extended 16-bit value holds it. -/
theorem eq_setWidth_of_read {x : BitVec 32} {n : BitVec 16} (h : x.setWidth 64 = n.setWidth 64 &&& 0xFFFFFFFF#64) :
    x = n.setWidth 32 := by
  rw [← setWidth32_eq_and] at h
  simpa using congrArg (BitVec.setWidth 32) h

end Sys2Proof.Machine

open Sys2Proof Sys2Proof.Machine

/-- Settles O59: with `MOVE_DELAY` 0 the write of `SETI` is one that its own step commits last. -/
theorem setImmediateCommitsInItsStep : Obligations.SetImmediateCommitsInItsStep := by
  unfold Obligations.SetImmediateCommitsInItsStep
  intro s t hi g imm16 hs hf hann hdelay h
  have hmask : ones (.gpr g) &&& 0xFFFFFFFF &&& writeBits (.gpr g) .core = regBits (.gpr g) :=
    show ones (.gpr 0) &&& 0xFFFFFFFF &&& fullMask = 0xFFFFFFFF by decide
  have hread := step_commits_lo_write (r := .gpr g) hs hf hann nofun hmask (fun u hu h1 => by
    have happ := exec_seti_gpr_appends h1 g imm16
    rwa [hu, hdelay] at happ) h
  have hwidth : ones (.gpr g) &&& regBits (.gpr g) = 0xFFFFFFFF :=
    show ones (.gpr 0) &&& 0xFFFFFFFF = 0xFFFFFFFF by decide
  rw [BitVec.and_assoc, hwidth] at hread
  exact eq_setWidth_of_read hread

/-- Settles O60: issue starts the drain, the code is a write that its own step commits last, and no other stage of the
step controls the scheduler. -/
theorem stopCommitsCodeAndDrains : Obligations.StopCommitsCodeAndDrains := by
  unfold Obligations.StopCommitsCodeAndDrains
  intro s t hi code hs hf hann h
  have hread := step_commits_lo_write (r := .stopcode) (v := code.setWidth 64) (m := 0xFFFFFFFF) hs hf hann nofun
    (by decide) (fun u _ h1 => execStop_appends h1 code) h
  obtain ⟨a, u, v, p, ha, hview, hcore, hv, hfin⟩ := step_issues_lo hs hf hann h
  obtain ⟨-, hcorev⟩ := (runStage_keeps (.stop code) 1 _ _ u).of_next hv
  have hviewv := ((runStage_data (i := .stop code) rfl _ _ u).of_next hv).trans hview
  rw [exec_stop_at_issue] at ha
  obtain rfl := Host.Outcome.next.inj ha
  rw [shiftView_startDrain, shiftView_stageState, shiftView_withPushed] at hviewv
  have hrunning : running v = running s := (congrArg running hviewv :)
  obtain ⟨-, -, hmode, -⟩ := hf
  refine ⟨eq_setWidth_of_read hread, ?_, ?_, fun hpend hdepth => ?_⟩
  · exact (congrArg State.drain (finishStep_outside hfin) :).trans (congrArg State.drain hviewv :)
  · rw [finishStep_running (s := clearCur { v with lmempipe := p }) { hcorev hcore with } hfin]
    exact hrunning.trans (running_of_modeOf hmode)
  · have hpop : s.popPending = false := by
      by_contra hne
      exact absurd (hs.pop (Bool.of_not_eq_false hne)) (by omega)
    exact finishStep_pc_next (s := clearCur { v with lmempipe := p })
      ((congrArg State.popPending hviewv :).trans hpop) ((congrArg State.xferPending hviewv :).trans hpend)
      ((congrArg State.loopDepth hviewv :).trans hdepth) hfin

end

section
/-! The compares and the flag writes (41_arith.md R224, R234): which half each bit of the reference compare comes from,
and that committing a write whose value is its mask ORs it into the register. -/

namespace Sys2Proof.Machine

/-! ## The bits of the reference compare -/

/-- Bit 0 of two one-bit results side by side is the right one. -/
theorem getLsbD_ofBool_append_zero (c1 c0 : Bool) : (BitVec.ofBool c1 ++ BitVec.ofBool c0).getLsbD 0 = c0 := by
  rw [BitVec.getLsbD_append]
  simp

/-- Bit 1 of two one-bit results side by side is the left one. -/
theorem getLsbD_ofBool_append_one (c1 c0 : Bool) : (BitVec.ofBool c1 ++ BitVec.ofBool c0).getLsbD 1 = c1 := by
  rw [BitVec.getLsbD_append]
  simp

/-! ## Writes whose value is their mask -/

/-- A write of `v` under the mask `v`, all of it writable, ORs `v` into a 32-bit register (41_arith.md R224). -/
theorem merge32_eq_or {v b : Word} (hv : v &&& b = v) (old : BitVec 32) :
    (merge (old.setWidth 64) v (v &&& b)).setWidth 32 = old ||| v.setWidth 32 := by
  ext i hi
  have hbit : v.getLsbD i = true → b.getLsbD i = true := fun h => by
    rw [← hv, BitVec.getLsbD_and, Bool.and_eq_true] at h
    exact h.2
  rw [← BitVec.getLsbD_eq_getElem, getLsbD_merge32 old v v b hi, BitVec.getElem_or, BitVec.getElem_setWidth,
    ← BitVec.getLsbD_eq_getElem]
  cases h : v.getLsbD i
  · simp
  · simp [hbit h]

theorem commitValue_fcsr_eq_or {v : Word} {k : Sec} {o : Origin} (hv : v &&& writeBits (.fcsr k) o = v) (s : State) :
    (commitValue (.fcsr k) v v o s).fcsr[k] = s.fcsr[k] ||| v.setWidth 32 :=
  (vector_set_get s.fcsr k k _).trans ((if_pos rfl).trans (merge32_eq_or hv _))

theorem commitValue_status_eq_or {v : Word} {o : Origin} (hv : v &&& writeBits .status o = v) (s : State) :
    (commitValue .status v v o s).status = s.status ||| v.setWidth 32 := merge32_eq_or hv _

/-! ## The flags in FCSR and in STATUS.FPE -/

/-- Every flag has a writable bit of FCSR (10_state.md R25). -/
theorem flags_and_writeBits_fcsr (f : FpFlags) (k : Sec) (o : Origin) :
    f.setWidth 64 &&& writeBits (.fcsr k) o = f.setWidth 64 := by
  have hones : writeBits (.fcsr k) o = (BitVec.allOnes 6).setWidth 64 := by cases o <;> rfl
  rw [hones, ← BitVec.setWidth_and, BitVec.and_allOnes]

/-- Every flag has a writable bit of STATUS.FPE, which is STATUS bits 13:8 (10_state.md R30, R31). -/
theorem fpe_and_writeBits_status (f : FpFlags) :
    f.setWidth 64 <<< 8 &&& writeBits .status .core = f.setWidth 64 <<< 8 := by
  have hfpe : writeBits (.fcsr 0) .core <<< 8 &&& writeBits .status .core = writeBits (.fcsr 0) .core <<< 8 := by
    decide
  rw [← flags_and_writeBits_fcsr f 0 .core, BitVec.shiftLeft_and_distrib, BitVec.and_assoc, hfpe]

theorem setWidth_fpe (f : FpFlags) : (f.setWidth 64 <<< 8).setWidth 32 = f.setWidth 32 <<< 8 := by
  ext i hi
  simp [BitVec.getElem_setWidth, BitVec.getElem_shiftLeft]

end Sys2Proof.Machine

open Sys2Proof Sys2Proof.Machine

/-- Settles O23: the reference compare puts the bit of half 1 before that of half 0, and each of the three is `ExecCmp`
with its own operation, whose handler schedules `cmpWrites`. -/
theorem compares : Obligations.Compares := by
  unfold Obligations.Compares
  refine ⟨fun op x y => ⟨?_, ?_⟩, fun s cc fs ft h => ⟨?_, ?_, ?_⟩⟩
  · exact getLsbD_ofBool_append_zero ..
  · exact getLsbD_ofBool_append_one ..
  · exact (execCmp_appends h .eq cc fs ft).next
  · exact (execCmp_appends h .lt cc fs ft).next
  · exact (execCmp_appends h .le cc fs ft).next

/-- Settles O48: `WriteFlags` schedules `flagWrites`, and each of its writes has the flags as value and as mask. -/
theorem flagsAccumulate : Obligations.FlagsAccumulate := by
  unfold Obligations.FlagsAccumulate
  intro s k f d b
  refine ⟨rfl, fun hf hroom => ?_, ?_, ?_⟩
  · have happ := writeFlags_appends k f d b s
    rw [flagWrites, if_neg hf] at happ
    exact happ.next hroom
  · rw [commitValue_fcsr_eq_or (flags_and_writeBits_fcsr f k .core), BitVec.setWidth_setWidth_of_le f (by decide)]
  · rw [commitValue_status_eq_or (fpe_and_writeBits_status f), setWidth_fpe]

end

section
/-! Stages 2 and 3 of the loads, stage 2 of the stores, the address update and the reference address modification
(42_memory_ops.md R260 to R270). -/

namespace Sys2Proof.Machine

/-! ## The address-register update -/

/-- What scheduling `e.new_an` can do (42_memory_ops.md R261, R270). -/
theorem schedNewAn_appends (n : Fin 8) (s : State) :
    Appends 0 0 [coreWrite (.an n) (s.cur.latch.newAn.setWidth 64) 0xFFFF true s] s (schedNewAn n s) :=
  sched_appends ..

theorem execAupd_stage1 {s : State} (h : s.cur.stage = 1) (n : Fin 8) (off13 : BitVec 13) :
    execAupd n off13 s = .next (aupdStage1 n off13 s) := by
  unfold execAupd
  rw [h]
  rfl

theorem execAupd_stage2 {s : State} (h : s.cur.stage = 2) (n : Fin 8) (off13 : BitVec 13) :
    execAupd n off13 s = schedNewAn n s := by
  unfold execAupd
  rw [h]
  rfl

/-! ## The reference address modification -/

theorem referenceAgu_zero (an step : Addr) : referenceAgu an step 0 = an + step := if_pos rfl

/-- The bits of `mn` come from the sum, the others from `an` (42_memory_ops.md R260). -/
theorem getLsbD_referenceAgu {mn : Addr} (h : mn ≠ 0) (an step : Addr) {i : Nat} (hi : i < 16) :
    (referenceAgu an step mn).getLsbD i = if mn.getLsbD i then (an + step).getLsbD i else an.getLsbD i := by
  rw [referenceAgu, if_neg h, BitVec.getLsbD_or, BitVec.getLsbD_and, BitVec.getLsbD_and, BitVec.getLsbD_not]
  cases mn.getLsbD i <;> simp [hi]

/-! ## Stages 2 and 3 of a load -/

/-- The load part of stage 2 changes working values only (42_memory_ops.md R261). -/
theorem loadRead_eq (dbl : Bool) (s : State) : loadRead dbl s = setLatch (loadLatch dbl s) s := by
  simp only [loadRead, loadLatch, latchData_eq_takeWords]

theorem loadOp_stage2 {s : State} (h : s.cur.stage = 2) (dbl : Bool) (mode : AddrMode) (p : Bool) (cc : Fin 8)
    (f : Fin 64) (n : Fin 8) :
    loadOp dbl mode p cc f n s = updateAddress mode n (setLatch (loadLatch dbl s) s) := by
  unfold loadOp
  rw [h, loadRead_eq]
  rfl

/-- What stage 2 of an LP load can do: it schedules the address that stage 1 computed (42_memory_ops.md R264, R265). -/
theorem loadOp_postModify_appends {s : State} (h : s.cur.stage = 2) (dbl p : Bool) (cc : Fin 8) (f : Fin 64)
    (n : Fin 8) :
    Appends 0 0 [coreWrite (.an n) (s.cur.latch.newAn.setWidth 64) 0xFFFF true s] (setLatch (loadLatch dbl s) s)
      (loadOp dbl .postModify p cc f n s) := by
  rw [loadOp_stage2 h]
  exact schedNewAn_appends n (setLatch (loadLatch dbl s) s)

/-- What stage 3 of a load can do (42_memory_ops.md R261). -/
theorem loadOp_stage3_appends {s : State} (h : s.cur.stage = 3) (dbl : Bool) (mode : AddrMode) (p : Bool)
    (cc : Fin 8) (f : Fin 64) (n : Fin 8) :
    Appends 0 0 (loadWrites dbl f s) s (loadOp dbl mode p cc f n s) := by
  unfold loadOp
  rw [h]
  exact loadStage3_appends dbl f s

/-! ## Stage 2 of a store -/

theorem storeOp_stage2 {s : State} (h : s.cur.stage = 2) (dbl : Bool) (mode : AddrMode) (p : Bool) (cc : Fin 8)
    (f : Fin 64) (n : Fin 8) :
    storeOp dbl mode p cc f n s = andThen (updateAddress mode n s) fun s => .next (storeWrite dbl s) := by
  unfold storeOp
  rw [h]
  rfl

/-- Stage 2 of a store whose address update goes on to `t`, with memories and working values as they were: from `t` it
changes the memories only, to what `storedWord` says (42_memory_ops.md R261). -/
theorem storeOp_stores {s t : State} {mode : AddrMode} {n : Fin 8} (h : s.cur.stage = 2)
    (hwf : ∀ k : Sec, Memory.wf s.lmem[k]) (ht : updateAddress mode n s = .next t) (hlmem : t.lmem = s.lmem)
    (hcur : t.cur = s.cur) (dbl p : Bool) (cc : Fin 8) (f : Fin 64) :
    ∃ m, storeOp dbl mode p cc f n s = .next { t with lmem := m } ∧
      ∀ k x, memRead k x { s with lmem := m } = storedWord dbl s.cur.latch k x (memRead k x s) := by
  refine ⟨(storeWrite dbl t).lmem, ?_, fun k x => ?_⟩
  · rw [storeOp_stage2 h, ht, andThen_next, ← storeWrite_eq]
  · have hread : memRead k x t = memRead k x s := by rw [memRead, memRead, hlmem]
    rw [← hcur, ← hread]
    exact memRead_storeWrite (by rwa [hlmem]) dbl k x

end Sys2Proof.Machine

open Sys2Proof Sys2Proof.Machine

/-- Settles O31: each store is `storeOp`, whose address update leaves memories and working values as they are. -/
theorem storeMemoryStage : Obligations.StoreMemoryStage := by
  unfold Obligations.StoreMemoryStage
  intro s p cc f n off13 h hwf
  have hoffset (dbl : Bool) := storeOp_stores (mode := .offset off13) (n := n) h hwf rfl rfl rfl dbl p cc f
  refine ⟨hoffset false, hoffset true, fun hroom => ?_⟩
  have hmodify (dbl : Bool) :=
    storeOp_stores (mode := .postModify) h hwf ((schedNewAn_appends n s).next hroom) rfl rfl dbl p cc f
  exact ⟨hmodify false, hmodify true⟩

/-- Settles O29: stage 2 of a load is its read, and then the address update of its addressing mode. -/
theorem loadMemoryStage : Obligations.LoadMemoryStage := by
  unfold Obligations.LoadMemoryStage
  intro s p cc f n off13 h
  exact ⟨loadOp_stage2 h .., loadOp_stage2 h .., fun hroom =>
    ⟨(loadOp_postModify_appends h ..).next hroom, (loadOp_postModify_appends h ..).next hroom⟩⟩

/-- Settles O30: stage 3 of the four loads schedules `loadWrites`, in both addressing modes. -/
theorem loadRegisterStage : Obligations.LoadRegisterStage := by
  unfold Obligations.LoadRegisterStage
  intro s p cc f n off13 h
  exact ⟨fun hroom => ⟨(loadOp_stage3_appends h ..).next hroom, (loadOp_stage3_appends h ..).next hroom⟩,
    fun hroom => ⟨(loadOp_stage3_appends h ..).next hroom, (loadOp_stage3_appends h ..).next hroom⟩⟩

/-- Settles O33: the reference function merges sum and `an` under the mask `mn`. -/
theorem referenceAddressModify : Obligations.ReferenceAddressModify := by
  unfold Obligations.ReferenceAddressModify
  intro an step mn
  exact ⟨referenceAgu_zero an step, fun hmn i hi => getLsbD_referenceAgu hmn an step hi⟩

/-- Settles O32: stage 1 computes the address, stage 2 schedules it. -/
theorem addressUpdate : Obligations.AddressUpdate := by
  unfold Obligations.AddressUpdate
  intro s n off13
  refine ⟨fun h => execAupd_stage1 h n off13, fun h hroom => ?_⟩
  have hexec : exec (.aupd n off13) s = schedNewAn n s := execAupd_stage2 h n off13
  rw [hexec]
  exact (schedNewAn_appends n s).next hroom

end

section
/-! The control sub-instructions in stage 1: what a transfer requests, when a branch is taken, and when `ENDDO` faults
(43_control.md R290 to R296, R299). -/

namespace Sys2Proof.Machine

/-! ## The condition of `BCC` -/

/-- `BCC.all` (43_control.md R292). -/
theorem bccTaken_all_iff (cc : Fin 8) (s : State) :
    bccTaken true cc s = true ↔ ∀ k : Sec, (readReg (.fccr k) s).getLsbD cc.val = true := by
  simp [bccTaken, Fin.forall_fin_succ, and_assoc]

/-- `BCC.any` (43_control.md R292). -/
theorem bccTaken_any_iff (cc : Fin 8) (s : State) :
    bccTaken false cc s = true ↔ ∃ k : Sec, (readReg (.fccr k) s).getLsbD cc.val = true := by
  simp [bccTaken, Fin.exists_fin_succ, or_assoc]

theorem exec_bcc_taken {s : State} {all : Bool} {cc : Fin 8} (h : s.cur.stage = 1) (ht : bccTaken all cc s = true)
    (a : Addr) : exec (.bcc all cc a) s = .next { s with xferReq := some { kind := .jump, target := a } } :=
  (inStage1_of_eq h _).trans (if_pos ht)

theorem exec_bcc_not_taken {s : State} {all : Bool} {cc : Fin 8} (h : s.cur.stage = 1)
    (ht : ¬ bccTaken all cc s = true) (a : Addr) : exec (.bcc all cc a) s = .next s :=
  (inStage1_of_eq h _).trans (if_neg ht)

/-! ## The faults of `ENDDO` -/

theorem loopBackPending_of_loop {s : State} {a : Addr} (h : s.xferPending = some { kind := .loop, target := a }) :
    loopBackPending s = true := by
  rw [loopBackPending, h]
  rfl

theorem exec_enddo {s : State} (h : s.cur.stage = 1) : exec .enddo s = enddoHandler s := inStage1_of_eq h _

theorem enddoHandler_delaySlot {s : State} (h : s.cur.delaySlot = true) :
    enddoHandler s = .fault .loopControlInDelaySlot := if_pos h

theorem enddoHandler_conflict {s : State} (hds : s.cur.delaySlot = false)
    (h : s.popPending = true ∨ loopBackPending s = true) : enddoHandler s = .fault .endDoConflict := by
  unfold enddoHandler
  rw [hds, if_neg Bool.false_ne_true, if_pos (Bool.or_eq_true_iff.mpr h)]

end Sys2Proof.Machine

open Sys2Proof Sys2Proof.Machine

/-- Settles O36: each handler is one `requestXfer`, which answers with the request and nothing else. -/
theorem transferRequests : Obligations.TransferRequests := by
  unfold Obligations.TransferRequests
  intro s a g h
  exact ⟨inStage1_of_eq h (requestXfer .jump a), inStage1_of_eq h (callHandler g),
    inStage1_of_eq h (requestXfer .call a), inStage1_of_eq h (requestXfer .ret 0)⟩

/-- Settles O37: `bccTaken` is the condition on all sections, or on some. -/
theorem conditionalBranch : Obligations.ConditionalBranch := by
  unfold Obligations.ConditionalBranch
  intro s cc a h bit taken
  refine ⟨fun hall => ?_, fun ⟨k, hk⟩ => ?_, fun hany => ?_, fun hnone => ?_⟩
  · exact exec_bcc_taken h ((bccTaken_all_iff cc s).mpr hall) a
  · exact exec_bcc_not_taken h (fun ht => Bool.eq_false_iff.mp hk ((bccTaken_all_iff cc s).mp ht k)) a
  · exact exec_bcc_taken h ((bccTaken_any_iff cc s).mpr hany) a
  · refine exec_bcc_not_taken h (fun ht => ?_) a
    obtain ⟨k, hk⟩ := (bccTaken_any_iff cc s).mp ht
    exact Bool.eq_false_iff.mp (hnone k) hk

/-- Settles O43: the first two tests of the handler, the second met by a pending pop or a latched loop-back. -/
theorem loopExitFaults : Obligations.LoopExitFaults := by
  unfold Obligations.LoopExitFaults
  intro s h
  rw [exec_enddo h]
  refine ⟨enddoHandler_delaySlot, fun hds hpending => enddoHandler_conflict hds ?_⟩
  exact hpending.imp_right fun ⟨_, hloop⟩ => loopBackPending_of_loop hloop

end

section
/-! The sub-instructions that do nothing, and the register moves in stage 1 (44_moves.md R340 to R344). -/

open Sys2Proof Sys2Proof.Machine

/-- Settles O25: neither has work in any stage. -/
theorem nopsDoNothing : Obligations.NopsDoNothing := by
  unfold Obligations.NopsDoNothing
  intro s
  have hhi : actsIn .hnop s.cur.stage = false := rfl
  have hlo : actsIn .lnop s.cur.stage = false := rfl
  exact ⟨exec_of_idle hhi, exec_of_idle hlo⟩

/-- Settles O34: the handler of `SETI` schedules `targetWrites` of the immediate, or overflows the slot, which has room. -/
theorem setImmediate : Obligations.SetImmediate := by
  unfold Obligations.SetImmediate
  intro s rd u imm16 h hroom
  exact (execSeti_appends h rd u imm16).next hroom

/-- Settles O35: the handler of `MOVE` schedules `targetWrites` of the source value, or overflows the slot, which has
room. -/
theorem moveRegister : Obligations.MoveRegister := by
  unfold Obligations.MoveRegister
  intro s rd rs sec bc h ws hroom
  exact (execMove_appends h rd rs sec bc).next hroom

end

section
/-! Recorded faults (60_exceptions.md R360, R361) and the host's push into the FIFO (60_exceptions.md R382). -/

namespace Sys2Proof.Machine

/-! ## Recorded faults -/

/-- A faulted state takes no further step (60_exceptions.md R361). -/
theorem step_of_recorded {s : State} {r : Fault} (h : s.fault = some r) : step s = .fault r := by
  unfold step checkedStep
  rw [h]

/-- A fault leaves the state before the step, with the reason recorded (60_exceptions.md R360, R384). -/
theorem clock_of_fault {s : State} {r : Fault} (h : step s = .fault r) (n : Nat) :
    clock n s = (recordFault r s, some r, none) := by
  unfold clock
  rw [h]

theorem recordFault_of_recorded {s : State} {r : Fault} (h : s.fault = some r) : recordFault r s = s := by
  unfold recordFault
  rw [← h]

/-! ## A push into the FIFO -/

theorem fifoPush_outOfRange {s : State} {a : Addr} (h : s.params.iramWords ≤ a.toNat) (w : Word) :
    fifoPush (.preload a w) s = .error .outOfRange := if_pos h

/-- A push that is no host error depends on the number of entries only, whichever entry it is. -/
theorem fifoPush_of_inRange {s : State} {e : FifoEntry}
    (h : ¬ ∃ a w, e = .preload a w ∧ s.params.iramWords ≤ a.toNat) :
    fifoPush e s =
      .ok (if s.fifo.length = s.params.fifoMaxSize then { s with status := s.status ||| 8 }
        else { s with fifo := s.fifo ++ [e] }) := by
  cases e with
  | preload a w => exact if_neg fun hout => h ⟨a, w, rfl, hout⟩
  | exec w => rfl

end Sys2Proof.Machine

open Sys2Proof Sys2Proof.Machine

/-- Settles O9: `clock` records the fault of its step, and recording a fault that is already there changes nothing. -/
theorem faultedStateTakesNoStep : Obligations.FaultedStateTakesNoStep := by
  unfold Obligations.FaultedStateTakesNoStep
  refine ⟨fun s r n _ hstep => clock_of_fault hstep n, fun s r n hfault => ?_⟩
  have hstep : step s = .fault r := step_of_recorded hfault
  have hclock := clock_of_fault hstep n
  rw [recordFault_of_recorded hfault] at hclock
  exact ⟨hstep, hclock⟩

/-- Settles O56: a pre-load beyond IRAM is refused; any other push is decided by whether the FIFO is full. -/
theorem fifoPush : Obligations.FifoPush := by
  unfold Obligations.FifoPush
  intro s e
  refine ⟨fun ⟨a, w, he, hout⟩ => ?_, fun hin => ⟨fun hfull => ?_, fun hroom => ?_⟩⟩
  · rw [he]
    exact fifoPush_outOfRange hout w
  · rw [fifoPush_of_inRange hin, if_pos hfull]
  · rw [fifoPush_of_inRange hin, if_neg hroom]

end
